-- ==== Sys2Proof/Word.lean ====
section
/-! DEFINITION. The two word widths of the hardware (spec 00_scope R5: data 8 bits, CPU address 16 bits). -/

namespace Sys2Proof

/-- A data byte, and the width of A, X, Y, SP and P (00_scope R5). -/
abbrev Byte := BitVec 8

/-- A CPU address and the width of PC (00_scope R5). -/
abbrev Word := BitVec 16

end Sys2Proof
end

