-- ==== Sys2Proof/Modes.lean ====
section
/-! DEFINITION. The 13 addressing modes (spec 30_encoding R125) and an instruction's operand: a mode together with
the operand field of its format (30_encoding R121 to R124). -/

namespace Sys2Proof

/-- The 13 addressing modes, by their spec codes (30_encoding R125). -/
inductive Mode where
  | imp | acc | imm | zp | zpx | zpy | abs | abx | aby | ind | izx | izy | rel
  deriving DecidableEq, Repr

/-- An operand: the mode and its field (30_encoding R121 to R124). `imm8` and `zp8` and `rel8` are bytes, `abs16` is
a word already assembled little-endian. -/
inductive Operand where
  /-- Implied: no field. -/
  | imp
  /-- Accumulator: no field. -/
  | acc
  /-- Immediate `#$nn`. -/
  | imm (v : Byte)
  /-- ZeroPage `$nn`. -/
  | zp (z : Byte)
  /-- ZeroPageX `$nn,X`. -/
  | zpx (z : Byte)
  /-- ZeroPageY `$nn,Y`. -/
  | zpy (z : Byte)
  /-- Absolute `$nnnn`. -/
  | abs (a : Word)
  /-- AbsoluteX `$nnnn,X`. -/
  | abx (a : Word)
  /-- AbsoluteY `$nnnn,Y`. -/
  | aby (a : Word)
  /-- Indirect `($nnnn)`, used only by JMP. -/
  | ind (a : Word)
  /-- IndirectX `($nn,X)`. -/
  | izx (z : Byte)
  /-- IndirectY `($nn),Y`. -/
  | izy (z : Byte)
  /-- Relative: the signed displacement `rel8`. -/
  | rel (d : Byte)
  deriving DecidableEq, Repr

/-- The addressing mode of an operand. -/
def Operand.mode : Operand → Mode
  | .imp => .imp
  | .acc => .acc
  | .imm _ => .imm
  | .zp _ => .zp
  | .zpx _ => .zpx
  | .zpy _ => .zpy
  | .abs _ => .abs
  | .abx _ => .abx
  | .aby _ => .aby
  | .ind _ => .ind
  | .izx _ => .izx
  | .izy _ => .izy
  | .rel _ => .rel

end Sys2Proof
end

