-- ==== Sys2Proof/Syntax.lean ====
section
/-! DEFINITION. The instructions: one constructor per mnemonic of spec/opcode_table.json, carrying the operand that
tells its rows apart (spec 30_encoding R126). A constructor whose rows have several modes takes an `Operand`; one
whose rows have a single mode takes that mode's field. `unop` and `unsupported` also carry the opcode byte, because
several of their rows share a mode (log 7). -/

namespace Sys2Proof

/-- The instruction set (30_encoding R126 to R128; files 41 to 46). -/
inductive Instr where
  -- loads, stores, transfers (41_load_store_transfer)
  | lda (o : Operand)
  | ldx (o : Operand)
  | ldy (o : Operand)
  | sta (o : Operand)
  | stx (o : Operand)
  | sty (o : Operand)
  | tax
  | tay
  | txa
  | tya
  | tsx
  | txs
  -- arithmetic, logic, compare, increment, decrement (42_arithmetic_logic)
  | adc (o : Operand)
  | sbc (o : Operand)
  | and (o : Operand)
  | ora (o : Operand)
  | eor (o : Operand)
  | cmp (o : Operand)
  | cpx (o : Operand)
  | cpy (o : Operand)
  | bit (o : Operand)
  | inc (o : Operand)
  | dec (o : Operand)
  | inx
  | iny
  | dex
  | dey
  -- shifts and rotates (43_shift_rotate)
  | asl (o : Operand)
  | lsr (o : Operand)
  | rol (o : Operand)
  | ror (o : Operand)
  -- control flow (44_control_flow)
  | jmp (o : Operand)
  | jsr (a : Word)
  | rts
  | rti
  | bcc (d : Byte)
  | bcs (d : Byte)
  | beq (d : Byte)
  | bne (d : Byte)
  | bmi (d : Byte)
  | bpl (d : Byte)
  | bvc (d : Byte)
  | bvs (d : Byte)
  | brk
  | nop
  -- stack and flags (45_stack_flags)
  | pha
  | pla
  | php
  | plp
  | clc
  | sec
  | cli
  | sei
  | cld
  | sed
  | clv
  -- undocumented (46_undocumented)
  | lax (o : Operand)
  | sax (o : Operand)
  | dcp (o : Operand)
  | isb (o : Operand)
  | slo (o : Operand)
  | rla (o : Operand)
  | sre (o : Operand)
  | rra (o : Operand)
  /-- `*SBC`, only `#$nn` (46_undocumented R278). -/
  | usbc (v : Byte)
  /-- `*NOP`: its opcode byte and its operand (46_undocumented R279, R280). -/
  | unop (op : Byte) (o : Operand)
  /-- One of the 25 unsupported codes, by its opcode byte (46_undocumented R281). -/
  | unsupported (op : Byte)
  deriving DecidableEq, Repr

end Sys2Proof
end

