-- ==== Sys2Proof/WellFormed.lean ====
section
/-! DEFINITION. Which terms of `Instr` are instructions: the modes each instruction's rule lists as its operands
(spec files 41 to 46, "Operands:"), the opcode bytes of the *NOP rows (46_undocumented R279, R280) and the 25
unsupported codes (30_encoding R127). -/

namespace Sys2Proof

/-- The operand modes the instruction's rule lists. -/
def Instr.modes : Instr → List Mode
  | .lda _ => [.imm, .zp, .zpx, .abs, .abx, .aby, .izx, .izy] -- R200
  | .ldx _ => [.imm, .zp, .zpy, .abs, .aby] -- R201
  | .ldy _ => [.imm, .zp, .zpx, .abs, .abx] -- R202
  | .sta _ => [.zp, .zpx, .abs, .abx, .aby, .izx, .izy] -- R203
  | .stx _ => [.zp, .zpy, .abs] -- R204
  | .sty _ => [.zp, .zpx, .abs] -- R205
  | .tax => [.imp]
  | .tay => [.imp]
  | .txa => [.imp]
  | .tya => [.imp]
  | .tsx => [.imp]
  | .txs => [.imp]
  | .adc _ => [.imm, .zp, .zpx, .abs, .abx, .aby, .izx, .izy] -- R215
  | .sbc _ => [.imm, .zp, .zpx, .abs, .abx, .aby, .izx, .izy] -- R216
  | .and _ => [.imm, .zp, .zpx, .abs, .abx, .aby, .izx, .izy] -- R217
  | .ora _ => [.imm, .zp, .zpx, .abs, .abx, .aby, .izx, .izy] -- R218
  | .eor _ => [.imm, .zp, .zpx, .abs, .abx, .aby, .izx, .izy] -- R219
  | .cmp _ => [.imm, .zp, .zpx, .abs, .abx, .aby, .izx, .izy] -- R220
  | .cpx _ => [.imm, .zp, .abs] -- R221
  | .cpy _ => [.imm, .zp, .abs] -- R222
  | .bit _ => [.zp, .abs] -- R223
  | .inc _ => [.zp, .zpx, .abs, .abx] -- R224
  | .dec _ => [.zp, .zpx, .abs, .abx] -- R225
  | .inx => [.imp]
  | .iny => [.imp]
  | .dex => [.imp]
  | .dey => [.imp]
  | .asl _ => [.acc, .zp, .zpx, .abs, .abx] -- R232
  | .lsr _ => [.acc, .zp, .zpx, .abs, .abx] -- R233
  | .rol _ => [.acc, .zp, .zpx, .abs, .abx] -- R234
  | .ror _ => [.acc, .zp, .zpx, .abs, .abx] -- R235
  | .jmp _ => [.abs, .ind] -- R240, R241
  | .jsr _ => [.abs]
  | .rts => [.imp]
  | .rti => [.imp]
  | .bcc _ => [.rel]
  | .bcs _ => [.rel]
  | .beq _ => [.rel]
  | .bne _ => [.rel]
  | .bmi _ => [.rel]
  | .bpl _ => [.rel]
  | .bvc _ => [.rel]
  | .bvs _ => [.rel]
  | .brk => [.imp]
  | .nop => [.imp]
  | .pha => [.imp]
  | .pla => [.imp]
  | .php => [.imp]
  | .plp => [.imp]
  | .clc => [.imp]
  | .sec => [.imp]
  | .cli => [.imp]
  | .sei => [.imp]
  | .cld => [.imp]
  | .sed => [.imp]
  | .clv => [.imp]
  | .lax _ => [.zp, .zpy, .abs, .aby, .izx, .izy] -- R270
  | .sax _ => [.zp, .zpy, .abs, .izx] -- R271
  | .dcp _ => [.zp, .zpx, .abs, .abx, .aby, .izx, .izy] -- R272
  | .isb _ => [.zp, .zpx, .abs, .abx, .aby, .izx, .izy] -- R273
  | .slo _ => [.zp, .zpx, .abs, .abx, .aby, .izx, .izy] -- R274
  | .rla _ => [.zp, .zpx, .abs, .abx, .aby, .izx, .izy] -- R275
  | .sre _ => [.zp, .zpx, .abs, .abx, .aby, .izx, .izy] -- R276
  | .rra _ => [.zp, .zpx, .abs, .abx, .aby, .izx, .izy] -- R277
  | .usbc _ => [.imm]
  | .unop _ _ => [.imp, .imm, .zp, .zpx, .abs, .abx] -- R279, R280
  | .unsupported _ => [.imp]

/-- The operand an instruction carries. -/
def Instr.operand : Instr → Operand
  | .lda o => o
  | .ldx o => o
  | .ldy o => o
  | .sta o => o
  | .stx o => o
  | .sty o => o
  | .tax => .imp
  | .tay => .imp
  | .txa => .imp
  | .tya => .imp
  | .tsx => .imp
  | .txs => .imp
  | .adc o => o
  | .sbc o => o
  | .and o => o
  | .ora o => o
  | .eor o => o
  | .cmp o => o
  | .cpx o => o
  | .cpy o => o
  | .bit o => o
  | .inc o => o
  | .dec o => o
  | .inx => .imp
  | .iny => .imp
  | .dex => .imp
  | .dey => .imp
  | .asl o => o
  | .lsr o => o
  | .rol o => o
  | .ror o => o
  | .jmp o => o
  | .jsr a => .abs a
  | .rts => .imp
  | .rti => .imp
  | .bcc d => .rel d
  | .bcs d => .rel d
  | .beq d => .rel d
  | .bne d => .rel d
  | .bmi d => .rel d
  | .bpl d => .rel d
  | .bvc d => .rel d
  | .bvs d => .rel d
  | .brk => .imp
  | .nop => .imp
  | .pha => .imp
  | .pla => .imp
  | .php => .imp
  | .plp => .imp
  | .clc => .imp
  | .sec => .imp
  | .cli => .imp
  | .sei => .imp
  | .cld => .imp
  | .sed => .imp
  | .clv => .imp
  | .lax o => o
  | .sax o => o
  | .dcp o => o
  | .isb o => o
  | .slo o => o
  | .rla o => o
  | .sre o => o
  | .rra o => o
  | .usbc v => .imm v
  | .unop _ o => o
  | .unsupported _ => .imp

/-- The *NOP opcode bytes of a mode (46_undocumented R279, R280). -/
def nopCodes : Mode → List Byte
  | .imp => [0x1A, 0x3A, 0x5A, 0x7A, 0xDA, 0xFA]
  | .imm => [0x80, 0x82, 0x89, 0xC2, 0xE2]
  | .zp => [0x04, 0x44, 0x64]
  | .zpx => [0x14, 0x34, 0x54, 0x74, 0xD4, 0xF4]
  | .abs => [0x0C]
  | .abx => [0x1C, 0x3C, 0x5C, 0x7C, 0xDC, 0xFC]
  | _ => []

/-- The 25 opcode bytes with no handler (30_encoding R127). -/
def unsupportedCodes : List Byte :=
  [0x02, 0x12, 0x22, 0x32, 0x42, 0x52, 0x62, 0x72, 0x92, 0xB2, 0xD2, 0xF2] ++
  [0x0B, 0x2B, 0x4B, 0x6B, 0x8B, 0xAB, 0xCB, 0x93, 0x9B, 0x9C, 0x9E, 0x9F, 0xBB]

/-- The opcode byte a term carries is one of its rows'. -/
def Instr.codeOk : Instr → Bool
  | .unop op o => (nopCodes o.mode).contains op
  | .unsupported op => unsupportedCodes.contains op
  | _ => true

/-- A term is an instruction of the opcode map: its mode is listed by its rule and its carried opcode byte, where it
carries one, is one of its rows'. -/
def Instr.wellFormed (i : Instr) : Bool :=
  i.modes.contains i.operand.mode && i.codeOk

end Sys2Proof
end

