-- ==== Sys2Proof/Decode.lean ====
section
/-! DEFINITION. Decoding and encoding (spec 30_encoding). The decoder follows the opcode map of R126, one list per
high nibble; the encoder follows the encoding tables of files 41 to 46. -/

namespace Sys2Proof

/-- The 16-bit value `hi:lo` (00_scope R7). -/
def word16 (hi lo : Byte) : Word := hi ++ lo

/-- Bits 7..0 of a word. -/
def loByte (w : Word) : Byte := w.setWidth 8

/-- Bits 15..8 of a word. -/
def hiByte (w : Word) : Byte := (w >>> 8).setWidth 8

/-- The total instruction length in bytes of a mode's format (30_encoding R120 to R123, R125). -/
def Mode.length : Mode → Nat
  | .imp | .acc => 1
  | .imm | .zp | .zpx | .zpy | .izx | .izy | .rel => 2
  | .abs | .abx | .aby | .ind => 3

/-- The operand of a mode from the bytes after the opcode, the low byte of `abs16` first (30_encoding R121 to R124). -/
def operandOf (m : Mode) (b1 b2 : Byte) : Operand :=
  match m with
  | .imp => .imp
  | .acc => .acc
  | .imm => .imm b1
  | .zp => .zp b1
  | .zpx => .zpx b1
  | .zpy => .zpy b1
  | .abs => .abs (word16 b2 b1)
  | .abx => .abx (word16 b2 b1)
  | .aby => .aby (word16 b2 b1)
  | .ind => .ind (word16 b2 b1)
  | .izx => .izx b1
  | .izy => .izy b1
  | .rel => .rel b1

/-- The byte field of a one-byte operand. -/
def Operand.byte : Operand → Byte
  | .imm v | .zp v | .zpx v | .zpy v | .izx v | .izy v | .rel v => v
  | _ => 0

/-- The word field of a two-byte operand. -/
def Operand.word : Operand → Word
  | .abs a | .abx a | .aby a | .ind a => a
  | _ => 0

/-- A cell of the opcode map: the row's mode and the instruction it builds from its operand. -/
structure Row where
  mode : Mode
  build : Operand → Instr

/-- The cell of an unsupported code (30_encoding R127). -/
def noRow (op : Byte) : Row := ⟨.imp, fun _ => .unsupported op⟩

/-- The opcode map of 30_encoding R126: the 16 cells of a high nibble. -/
def mapRow : Nat → List Row
  | 0 => [⟨.imp, fun _ => .brk⟩, ⟨.izx, .ora⟩, noRow 0x02, ⟨.izx, .slo⟩,
      ⟨.zp, .unop 0x04⟩, ⟨.zp, .ora⟩, ⟨.zp, .asl⟩, ⟨.zp, .slo⟩,
      ⟨.imp, fun _ => .php⟩, ⟨.imm, .ora⟩, ⟨.acc, .asl⟩, noRow 0x0B,
      ⟨.abs, .unop 0x0C⟩, ⟨.abs, .ora⟩, ⟨.abs, .asl⟩, ⟨.abs, .slo⟩]
  | 1 => [⟨.rel, fun o => .bpl o.byte⟩, ⟨.izy, .ora⟩, noRow 0x12, ⟨.izy, .slo⟩,
      ⟨.zpx, .unop 0x14⟩, ⟨.zpx, .ora⟩, ⟨.zpx, .asl⟩, ⟨.zpx, .slo⟩,
      ⟨.imp, fun _ => .clc⟩, ⟨.aby, .ora⟩, ⟨.imp, .unop 0x1A⟩, ⟨.aby, .slo⟩,
      ⟨.abx, .unop 0x1C⟩, ⟨.abx, .ora⟩, ⟨.abx, .asl⟩, ⟨.abx, .slo⟩]
  | 2 => [⟨.abs, fun o => .jsr o.word⟩, ⟨.izx, .and⟩, noRow 0x22, ⟨.izx, .rla⟩,
      ⟨.zp, .bit⟩, ⟨.zp, .and⟩, ⟨.zp, .rol⟩, ⟨.zp, .rla⟩,
      ⟨.imp, fun _ => .plp⟩, ⟨.imm, .and⟩, ⟨.acc, .rol⟩, noRow 0x2B,
      ⟨.abs, .bit⟩, ⟨.abs, .and⟩, ⟨.abs, .rol⟩, ⟨.abs, .rla⟩]
  | 3 => [⟨.rel, fun o => .bmi o.byte⟩, ⟨.izy, .and⟩, noRow 0x32, ⟨.izy, .rla⟩,
      ⟨.zpx, .unop 0x34⟩, ⟨.zpx, .and⟩, ⟨.zpx, .rol⟩, ⟨.zpx, .rla⟩,
      ⟨.imp, fun _ => .sec⟩, ⟨.aby, .and⟩, ⟨.imp, .unop 0x3A⟩, ⟨.aby, .rla⟩,
      ⟨.abx, .unop 0x3C⟩, ⟨.abx, .and⟩, ⟨.abx, .rol⟩, ⟨.abx, .rla⟩]
  | 4 => [⟨.imp, fun _ => .rti⟩, ⟨.izx, .eor⟩, noRow 0x42, ⟨.izx, .sre⟩,
      ⟨.zp, .unop 0x44⟩, ⟨.zp, .eor⟩, ⟨.zp, .lsr⟩, ⟨.zp, .sre⟩,
      ⟨.imp, fun _ => .pha⟩, ⟨.imm, .eor⟩, ⟨.acc, .lsr⟩, noRow 0x4B,
      ⟨.abs, .jmp⟩, ⟨.abs, .eor⟩, ⟨.abs, .lsr⟩, ⟨.abs, .sre⟩]
  | 5 => [⟨.rel, fun o => .bvc o.byte⟩, ⟨.izy, .eor⟩, noRow 0x52, ⟨.izy, .sre⟩,
      ⟨.zpx, .unop 0x54⟩, ⟨.zpx, .eor⟩, ⟨.zpx, .lsr⟩, ⟨.zpx, .sre⟩,
      ⟨.imp, fun _ => .cli⟩, ⟨.aby, .eor⟩, ⟨.imp, .unop 0x5A⟩, ⟨.aby, .sre⟩,
      ⟨.abx, .unop 0x5C⟩, ⟨.abx, .eor⟩, ⟨.abx, .lsr⟩, ⟨.abx, .sre⟩]
  | 6 => [⟨.imp, fun _ => .rts⟩, ⟨.izx, .adc⟩, noRow 0x62, ⟨.izx, .rra⟩,
      ⟨.zp, .unop 0x64⟩, ⟨.zp, .adc⟩, ⟨.zp, .ror⟩, ⟨.zp, .rra⟩,
      ⟨.imp, fun _ => .pla⟩, ⟨.imm, .adc⟩, ⟨.acc, .ror⟩, noRow 0x6B,
      ⟨.ind, .jmp⟩, ⟨.abs, .adc⟩, ⟨.abs, .ror⟩, ⟨.abs, .rra⟩]
  | 7 => [⟨.rel, fun o => .bvs o.byte⟩, ⟨.izy, .adc⟩, noRow 0x72, ⟨.izy, .rra⟩,
      ⟨.zpx, .unop 0x74⟩, ⟨.zpx, .adc⟩, ⟨.zpx, .ror⟩, ⟨.zpx, .rra⟩,
      ⟨.imp, fun _ => .sei⟩, ⟨.aby, .adc⟩, ⟨.imp, .unop 0x7A⟩, ⟨.aby, .rra⟩,
      ⟨.abx, .unop 0x7C⟩, ⟨.abx, .adc⟩, ⟨.abx, .ror⟩, ⟨.abx, .rra⟩]
  | 8 => [⟨.imm, .unop 0x80⟩, ⟨.izx, .sta⟩, ⟨.imm, .unop 0x82⟩, ⟨.izx, .sax⟩,
      ⟨.zp, .sty⟩, ⟨.zp, .sta⟩, ⟨.zp, .stx⟩, ⟨.zp, .sax⟩,
      ⟨.imp, fun _ => .dey⟩, ⟨.imm, .unop 0x89⟩, ⟨.imp, fun _ => .txa⟩, noRow 0x8B,
      ⟨.abs, .sty⟩, ⟨.abs, .sta⟩, ⟨.abs, .stx⟩, ⟨.abs, .sax⟩]
  | 9 => [⟨.rel, fun o => .bcc o.byte⟩, ⟨.izy, .sta⟩, noRow 0x92, noRow 0x93,
      ⟨.zpx, .sty⟩, ⟨.zpx, .sta⟩, ⟨.zpy, .stx⟩, ⟨.zpy, .sax⟩,
      ⟨.imp, fun _ => .tya⟩, ⟨.aby, .sta⟩, ⟨.imp, fun _ => .txs⟩, noRow 0x9B,
      noRow 0x9C, ⟨.abx, .sta⟩, noRow 0x9E, noRow 0x9F]
  | 10 => [⟨.imm, .ldy⟩, ⟨.izx, .lda⟩, ⟨.imm, .ldx⟩, ⟨.izx, .lax⟩,
      ⟨.zp, .ldy⟩, ⟨.zp, .lda⟩, ⟨.zp, .ldx⟩, ⟨.zp, .lax⟩,
      ⟨.imp, fun _ => .tay⟩, ⟨.imm, .lda⟩, ⟨.imp, fun _ => .tax⟩, noRow 0xAB,
      ⟨.abs, .ldy⟩, ⟨.abs, .lda⟩, ⟨.abs, .ldx⟩, ⟨.abs, .lax⟩]
  | 11 => [⟨.rel, fun o => .bcs o.byte⟩, ⟨.izy, .lda⟩, noRow 0xB2, ⟨.izy, .lax⟩,
      ⟨.zpx, .ldy⟩, ⟨.zpx, .lda⟩, ⟨.zpy, .ldx⟩, ⟨.zpy, .lax⟩,
      ⟨.imp, fun _ => .clv⟩, ⟨.aby, .lda⟩, ⟨.imp, fun _ => .tsx⟩, noRow 0xBB,
      ⟨.abx, .ldy⟩, ⟨.abx, .lda⟩, ⟨.aby, .ldx⟩, ⟨.aby, .lax⟩]
  | 12 => [⟨.imm, .cpy⟩, ⟨.izx, .cmp⟩, ⟨.imm, .unop 0xC2⟩, ⟨.izx, .dcp⟩,
      ⟨.zp, .cpy⟩, ⟨.zp, .cmp⟩, ⟨.zp, .dec⟩, ⟨.zp, .dcp⟩,
      ⟨.imp, fun _ => .iny⟩, ⟨.imm, .cmp⟩, ⟨.imp, fun _ => .dex⟩, noRow 0xCB,
      ⟨.abs, .cpy⟩, ⟨.abs, .cmp⟩, ⟨.abs, .dec⟩, ⟨.abs, .dcp⟩]
  | 13 => [⟨.rel, fun o => .bne o.byte⟩, ⟨.izy, .cmp⟩, noRow 0xD2, ⟨.izy, .dcp⟩,
      ⟨.zpx, .unop 0xD4⟩, ⟨.zpx, .cmp⟩, ⟨.zpx, .dec⟩, ⟨.zpx, .dcp⟩,
      ⟨.imp, fun _ => .cld⟩, ⟨.aby, .cmp⟩, ⟨.imp, .unop 0xDA⟩, ⟨.aby, .dcp⟩,
      ⟨.abx, .unop 0xDC⟩, ⟨.abx, .cmp⟩, ⟨.abx, .dec⟩, ⟨.abx, .dcp⟩]
  | 14 => [⟨.imm, .cpx⟩, ⟨.izx, .sbc⟩, ⟨.imm, .unop 0xE2⟩, ⟨.izx, .isb⟩,
      ⟨.zp, .cpx⟩, ⟨.zp, .sbc⟩, ⟨.zp, .inc⟩, ⟨.zp, .isb⟩,
      ⟨.imp, fun _ => .inx⟩, ⟨.imm, .sbc⟩, ⟨.imp, fun _ => .nop⟩, ⟨.imm, fun o => .usbc o.byte⟩,
      ⟨.abs, .cpx⟩, ⟨.abs, .sbc⟩, ⟨.abs, .inc⟩, ⟨.abs, .isb⟩]
  | 15 => [⟨.rel, fun o => .beq o.byte⟩, ⟨.izy, .sbc⟩, noRow 0xF2, ⟨.izy, .isb⟩,
      ⟨.zpx, .unop 0xF4⟩, ⟨.zpx, .sbc⟩, ⟨.zpx, .inc⟩, ⟨.zpx, .isb⟩,
      ⟨.imp, fun _ => .sed⟩, ⟨.aby, .sbc⟩, ⟨.imp, .unop 0xFA⟩, ⟨.aby, .isb⟩,
      ⟨.abx, .unop 0xFC⟩, ⟨.abx, .sbc⟩, ⟨.abx, .inc⟩, ⟨.abx, .isb⟩]
  | _ => []

/-- `Decode(op)` (30_encoding R126): total on the 256 opcode bytes. -/
def decodeRow (op : Byte) : Row := (mapRow (op.toNat / 16)).getD (op.toNat % 16) (noRow op)

/-- The instruction of an opcode byte and the two bytes after it (the ones its mode uses). -/
def decodeBytes (op b1 b2 : Byte) : Instr :=
  (decodeRow op).build (operandOf (decodeRow op).mode b1 b2)

/-- Why a byte list holds no whole instruction. -/
inductive DecodeError where
  /-- No byte at all. -/
  | empty
  /-- The opcode byte's operand bytes are missing. -/
  | truncated (op : Byte)
  deriving DecidableEq, Repr

/-- Decode the instruction at the head of a byte list and give the rest (30_encoding R120: the length is known from
byte 0). -/
def decode : List Byte → Except DecodeError (Instr × List Byte)
  | [] => .error .empty
  | op :: t =>
    match (decodeRow op).mode.length, t with
    | 1, t => .ok (decodeBytes op 0 0, t)
    | 2, b1 :: t => .ok (decodeBytes op b1 0, t)
    | 3, b1 :: b2 :: t => .ok (decodeBytes op b1 b2, t)
    | _, _ => .error (.truncated op)

/-- The instruction of a table word: bit 0 is the least significant bit of the opcode byte, later bytes count on from
it, and every bit above `nbits` is 0 (a longer instruction's operand bytes are then 0). -/
def decodeTableWord (nbits w : Nat) : Option Instr :=
  let v := w % 2 ^ nbits
  match decode [BitVec.ofNat 8 v, BitVec.ofNat 8 (v / 256), BitVec.ofNat 8 (v / 65536)] with
  | .ok (i, _) => some i
  | .error _ => none

/-- The opcode byte of a mode in an instruction's encoding table. -/
def codeAt : List (Mode × Byte) → Mode → Option Byte
  | [], _ => none
  | (m, c) :: t, k => if m = k then some c else codeAt t k

/-- The encoding tables of files 41 to 46: the opcode byte of an instruction, none where no row has its mode. -/
def Instr.opcode : Instr → Option Byte
  | .lda o => codeAt [(.izx, 0xA1), (.zp, 0xA5), (.imm, 0xA9), (.abs, 0xAD), (.izy, 0xB1),
      (.zpx, 0xB5), (.aby, 0xB9), (.abx, 0xBD)] o.mode
  | .ldx o => codeAt [(.imm, 0xA2), (.zp, 0xA6), (.abs, 0xAE), (.zpy, 0xB6), (.aby, 0xBE)] o.mode
  | .ldy o => codeAt [(.imm, 0xA0), (.zp, 0xA4), (.abs, 0xAC), (.zpx, 0xB4), (.abx, 0xBC)] o.mode
  | .sta o => codeAt [(.izx, 0x81), (.zp, 0x85), (.abs, 0x8D), (.izy, 0x91), (.zpx, 0x95),
      (.aby, 0x99), (.abx, 0x9D)] o.mode
  | .stx o => codeAt [(.zp, 0x86), (.abs, 0x8E), (.zpy, 0x96)] o.mode
  | .sty o => codeAt [(.zp, 0x84), (.abs, 0x8C), (.zpx, 0x94)] o.mode
  | .tax => some 0xAA
  | .tay => some 0xA8
  | .txa => some 0x8A
  | .tya => some 0x98
  | .tsx => some 0xBA
  | .txs => some 0x9A
  | .adc o => codeAt [(.izx, 0x61), (.zp, 0x65), (.imm, 0x69), (.abs, 0x6D), (.izy, 0x71),
      (.zpx, 0x75), (.aby, 0x79), (.abx, 0x7D)] o.mode
  | .sbc o => codeAt [(.izx, 0xE1), (.zp, 0xE5), (.imm, 0xE9), (.abs, 0xED), (.izy, 0xF1),
      (.zpx, 0xF5), (.aby, 0xF9), (.abx, 0xFD)] o.mode
  | .and o => codeAt [(.izx, 0x21), (.zp, 0x25), (.imm, 0x29), (.abs, 0x2D), (.izy, 0x31),
      (.zpx, 0x35), (.aby, 0x39), (.abx, 0x3D)] o.mode
  | .ora o => codeAt [(.izx, 0x01), (.zp, 0x05), (.imm, 0x09), (.abs, 0x0D), (.izy, 0x11),
      (.zpx, 0x15), (.aby, 0x19), (.abx, 0x1D)] o.mode
  | .eor o => codeAt [(.izx, 0x41), (.zp, 0x45), (.imm, 0x49), (.abs, 0x4D), (.izy, 0x51),
      (.zpx, 0x55), (.aby, 0x59), (.abx, 0x5D)] o.mode
  | .cmp o => codeAt [(.izx, 0xC1), (.zp, 0xC5), (.imm, 0xC9), (.abs, 0xCD), (.izy, 0xD1),
      (.zpx, 0xD5), (.aby, 0xD9), (.abx, 0xDD)] o.mode
  | .cpx o => codeAt [(.imm, 0xE0), (.zp, 0xE4), (.abs, 0xEC)] o.mode
  | .cpy o => codeAt [(.imm, 0xC0), (.zp, 0xC4), (.abs, 0xCC)] o.mode
  | .bit o => codeAt [(.zp, 0x24), (.abs, 0x2C)] o.mode
  | .inc o => codeAt [(.zp, 0xE6), (.abs, 0xEE), (.zpx, 0xF6), (.abx, 0xFE)] o.mode
  | .dec o => codeAt [(.zp, 0xC6), (.abs, 0xCE), (.zpx, 0xD6), (.abx, 0xDE)] o.mode
  | .inx => some 0xE8
  | .iny => some 0xC8
  | .dex => some 0xCA
  | .dey => some 0x88
  | .asl o => codeAt [(.zp, 0x06), (.acc, 0x0A), (.abs, 0x0E), (.zpx, 0x16), (.abx, 0x1E)] o.mode
  | .lsr o => codeAt [(.zp, 0x46), (.acc, 0x4A), (.abs, 0x4E), (.zpx, 0x56), (.abx, 0x5E)] o.mode
  | .rol o => codeAt [(.zp, 0x26), (.acc, 0x2A), (.abs, 0x2E), (.zpx, 0x36), (.abx, 0x3E)] o.mode
  | .ror o => codeAt [(.zp, 0x66), (.acc, 0x6A), (.abs, 0x6E), (.zpx, 0x76), (.abx, 0x7E)] o.mode
  | .jmp o => codeAt [(.abs, 0x4C), (.ind, 0x6C)] o.mode
  | .jsr _ => some 0x20
  | .rts => some 0x60
  | .rti => some 0x40
  | .bcc _ => some 0x90
  | .bcs _ => some 0xB0
  | .beq _ => some 0xF0
  | .bne _ => some 0xD0
  | .bmi _ => some 0x30
  | .bpl _ => some 0x10
  | .bvc _ => some 0x50
  | .bvs _ => some 0x70
  | .brk => some 0x00
  | .nop => some 0xEA
  | .pha => some 0x48
  | .pla => some 0x68
  | .php => some 0x08
  | .plp => some 0x28
  | .clc => some 0x18
  | .sec => some 0x38
  | .cli => some 0x58
  | .sei => some 0x78
  | .cld => some 0xD8
  | .sed => some 0xF8
  | .clv => some 0xB8
  | .lax o => codeAt [(.izx, 0xA3), (.zp, 0xA7), (.abs, 0xAF), (.izy, 0xB3), (.zpy, 0xB7), (.aby, 0xBF)] o.mode
  | .sax o => codeAt [(.izx, 0x83), (.zp, 0x87), (.abs, 0x8F), (.zpy, 0x97)] o.mode
  | .dcp o => codeAt [(.izx, 0xC3), (.zp, 0xC7), (.abs, 0xCF), (.izy, 0xD3), (.zpx, 0xD7),
      (.aby, 0xDB), (.abx, 0xDF)] o.mode
  | .isb o => codeAt [(.izx, 0xE3), (.zp, 0xE7), (.abs, 0xEF), (.izy, 0xF3), (.zpx, 0xF7),
      (.aby, 0xFB), (.abx, 0xFF)] o.mode
  | .slo o => codeAt [(.izx, 0x03), (.zp, 0x07), (.abs, 0x0F), (.izy, 0x13), (.zpx, 0x17),
      (.aby, 0x1B), (.abx, 0x1F)] o.mode
  | .rla o => codeAt [(.izx, 0x23), (.zp, 0x27), (.abs, 0x2F), (.izy, 0x33), (.zpx, 0x37),
      (.aby, 0x3B), (.abx, 0x3F)] o.mode
  | .sre o => codeAt [(.izx, 0x43), (.zp, 0x47), (.abs, 0x4F), (.izy, 0x53), (.zpx, 0x57),
      (.aby, 0x5B), (.abx, 0x5F)] o.mode
  | .rra o => codeAt [(.izx, 0x63), (.zp, 0x67), (.abs, 0x6F), (.izy, 0x73), (.zpx, 0x77),
      (.aby, 0x7B), (.abx, 0x7F)] o.mode
  | .usbc _ => some 0xEB
  | .unop op o => if (nopCodes o.mode).contains op then some op else none
  | .unsupported op => if unsupportedCodes.contains op then some op else none

/-- The operand bytes, in memory order (30_encoding R121 to R123). -/
def Operand.bytes : Operand → List Byte
  | .imp | .acc => []
  | .imm v | .zp v | .zpx v | .zpy v | .izx v | .izy v | .rel v => [v]
  | .abs a | .abx a | .aby a | .ind a => [loByte a, hiByte a]

/-- The bytes of a well-formed instruction (none for a term that is no instruction). -/
def encode (i : Instr) : List Byte :=
  match i.opcode with
  | some op => op :: i.operand.bytes
  | none => []

end Sys2Proof
end

