-- ==== Sys2Proof/Machine/Bits.lean ====
section
/-! DEFINITION. Bit-field, extension and page helpers (spec 00_scope R7, 40_step_and_addressing R161). -/

namespace Sys2Proof.Machine

/-- `zext_16(v)` (00_scope R7). -/
def zext16 (v : Byte) : Word := v.setWidth 16

/-- `sext_8(v)` as a 16-bit two's-complement value (00_scope R7). -/
def sext16 (v : Byte) : Word := v.signExtend 16

/-- `v[k]`. -/
def bitOf (v : Byte) (k : Nat) : Bool := v.getLsbD k

/-- The byte with only bit k set. -/
def bitMask (k : Nat) : Byte := 1#8 <<< k

/-- `v` with bit k set to b. -/
def setBit (v : Byte) (k : Nat) (b : Bool) : Byte :=
  if b then v ||| bitMask k else v &&& ~~~ (bitMask k)

/-- The Boolean as the byte 0x00 or 0x01. -/
def byteOfBool (b : Bool) : Byte := if b then 1 else 0

/-- `Cross(base, ea)` (40_step_and_addressing R161). -/
def cross (base ea : Word) : Bool := (base &&& 0xFF00#16) != (ea &&& 0xFF00#16)

end Sys2Proof.Machine
end

