-- ==== Sys2Proof/Config.lean ====
section
/-! DEFINITION. What an implementation fixes (spec 00_scope R6): the parameters, and the one open value, the system
palette. The defaults stand in Machine/Params.lean. -/

namespace Sys2Proof

/-- One entry of `P_CYCLE_TABLE`: the base cycle cost and the page-cross flag of an opcode (30_encoding R134). -/
structure CycleCost where
  base : Nat
  pageCross : Bool
  deriving DecidableEq, Repr

/-- `P_APU_READ_MODE` (00_scope R6, D16). -/
inductive ApuReadMode where
  | stored | zero
  deriving DecidableEq, Repr

/-- `P_OAM_DATA_WRITE` (00_scope R6, D18). -/
inductive OamDataWrite where
  | allowed | fault
  deriving DecidableEq, Repr

/-- `P_TOGGLE_MODE` (00_scope R6, D21). -/
inductive ToggleMode where
  | separate | shared
  deriving DecidableEq, Repr

/-- The parameters of 00_scope R6 but the open system palette: what a step reads, what power-on and reset use, and the
entry PC the host may set (70_reset_and_hazards R403). -/
structure Config where
  /-- `P_CYCLE_TABLE`, indexed by the opcode byte. -/
  cycleTable : List CycleCost
  /-- `P_NMI_CYCLES`. -/
  nmiCycles : Nat
  /-- `P_RESET_CYCLES`. -/
  resetCycles : Nat
  /-- `P_OAM_DMA_EXTRA_CYCLES`. -/
  oamDmaExtraCycles : Nat
  /-- `P_APU_READ_MODE`. -/
  apuReadMode : ApuReadMode
  /-- `P_OAM_DATA_WRITE`. -/
  oamDataWrite : OamDataWrite
  /-- `P_TOGGLE_MODE`. -/
  toggleMode : ToggleMode
  /-- `P_PALETTE_MIRRORS`: the first members of the aliasing pairs; each names the entry 0x10 below it (50_ppu R317). -/
  paletteMirrors : List Nat
  /-- `P_INIT_FILL`: the power-on contents of CPU RAM, VRAM, OAM, palette and APU storage (70_reset_and_hazards R400). -/
  initFill : Byte
  /-- `P_ENTRY_PC`. -/
  entryPc : Option Word
  deriving DecidableEq, Repr

/-- An RGB triple of a frame (50_ppu R326). -/
structure Rgb where
  r : Byte
  g : Byte
  b : Byte
  deriving DecidableEq, Repr, Inhabited

/-- `P_SYSTEM_PALETTE` (00_scope R6, 50_ppu R327): OPEN, no default. A free value: nothing constrains it (log 9). Only
the renderer reads it. -/
opaque Config.systemPalette : BitVec 6 → Rgb

end Sys2Proof
end

