-- ==== Sys2Proof/Machine/Memory.lean ====
section
/-! DEFINITION. A byte storage as plain data: (address, byte) cells in one canonical form, addresses strictly rising and
no cell equal to what an unlisted address reads as (log 3). -/

namespace Sys2Proof.Machine

/-- A storage: its cells. An address no cell names holds `Memory.unlisted`. -/
abbrev Memory := List Host.Cell

/-- What an address no cell names reads as (log 3). -/
def Memory.unlisted : Byte := 0x00

/-- The byte at an address. -/
def Memory.read : Memory → Nat → Byte
  | [], _ => Memory.unlisted
  | (b, v) :: t, a => if a = b then v else Memory.read t a

/-- The storage without the cells of an address. -/
def Memory.erase : Memory → Nat → Memory
  | [], _ => []
  | (b, v) :: t, a => if a = b then Memory.erase t a else (b, v) :: Memory.erase t a

/-- The storage with a cell added before the first cell of a larger address. -/
def Memory.insert : Memory → Nat → Byte → Memory
  | [], a, v => [(a, v)]
  | (b, w) :: t, a, v => if a < b then (a, v) :: (b, w) :: t else (b, w) :: Memory.insert t a v

/-- Write a byte. Writing what an unlisted address reads as removes the cell, so equal storages are equal lists. -/
def Memory.write (m : Memory) (a : Nat) (v : Byte) : Memory :=
  if v = Memory.unlisted then Memory.erase m a else Memory.insert (Memory.erase m a) a v

/-- The canonical form: addresses strictly rising, no cell equal to what an unlisted address reads as. -/
def Memory.wf : Memory → Bool
  | [] => true
  | (a, v) :: t => v != Memory.unlisted && t.all (fun c => decide (a < c.1)) && Memory.wf t

/-- Every cell's address is below a bound. -/
def Memory.below (n : Nat) (m : Memory) : Bool := m.all fun c => decide (c.1 < n)

/-- The storage that holds one byte at each address of a rising list: its power-on contents (70_reset_and_hazards
R400). -/
def Memory.filled (addrs : List Nat) (v : Byte) : Memory :=
  if v = Memory.unlisted then [] else addrs.map fun a => (a, v)

/-- The storage whose address `k`, `k + 1`, … hold the bytes of a list. -/
def Memory.ofBytes : Nat → List Byte → Memory
  | _, [] => []
  | k, v :: t => if v = Memory.unlisted then Memory.ofBytes (k + 1) t else (k, v) :: Memory.ofBytes (k + 1) t

end Sys2Proof.Machine
end

