-- ==== Sys2Proof/Machine/Params.lean ====
section
/-! DEFINITION. The defaults of the implementation parameters (spec 00_scope R6). -/

namespace Sys2Proof.Machine

/-- Base cycles and page-cross flag of the 16 opcodes of a high nibble (spec/opcode_table.json `base_cycles` and
`page_cross_penalty`; 40_step_and_addressing R162). An unsupported code has no cost (46_undocumented R281): its entry
is read by no rule. -/
def cycleRow : Nat → List CycleCost
  | 0 => [⟨7, false⟩, ⟨6, false⟩, ⟨0, false⟩, ⟨8, false⟩, ⟨3, false⟩, ⟨3, false⟩, ⟨5, false⟩, ⟨5, false⟩,
      ⟨3, false⟩, ⟨2, false⟩, ⟨2, false⟩, ⟨0, false⟩, ⟨4, false⟩, ⟨4, false⟩, ⟨6, false⟩, ⟨6, false⟩]
  | 1 => [⟨2, true⟩, ⟨5, true⟩, ⟨0, false⟩, ⟨8, false⟩, ⟨4, false⟩, ⟨4, false⟩, ⟨6, false⟩, ⟨6, false⟩,
      ⟨2, false⟩, ⟨4, true⟩, ⟨2, false⟩, ⟨7, false⟩, ⟨4, true⟩, ⟨4, true⟩, ⟨7, false⟩, ⟨7, false⟩]
  | 2 => [⟨6, false⟩, ⟨6, false⟩, ⟨0, false⟩, ⟨8, false⟩, ⟨3, false⟩, ⟨3, false⟩, ⟨5, false⟩, ⟨5, false⟩,
      ⟨4, false⟩, ⟨2, false⟩, ⟨2, false⟩, ⟨0, false⟩, ⟨4, false⟩, ⟨4, false⟩, ⟨6, false⟩, ⟨6, false⟩]
  | 3 => [⟨2, true⟩, ⟨5, true⟩, ⟨0, false⟩, ⟨8, false⟩, ⟨4, false⟩, ⟨4, false⟩, ⟨6, false⟩, ⟨6, false⟩,
      ⟨2, false⟩, ⟨4, true⟩, ⟨2, false⟩, ⟨7, false⟩, ⟨4, true⟩, ⟨4, true⟩, ⟨7, false⟩, ⟨7, false⟩]
  | 4 => [⟨6, false⟩, ⟨6, false⟩, ⟨0, false⟩, ⟨8, false⟩, ⟨3, false⟩, ⟨3, false⟩, ⟨5, false⟩, ⟨5, false⟩,
      ⟨3, false⟩, ⟨2, false⟩, ⟨2, false⟩, ⟨0, false⟩, ⟨3, false⟩, ⟨4, false⟩, ⟨6, false⟩, ⟨6, false⟩]
  | 5 => [⟨2, true⟩, ⟨5, true⟩, ⟨0, false⟩, ⟨8, false⟩, ⟨4, false⟩, ⟨4, false⟩, ⟨6, false⟩, ⟨6, false⟩,
      ⟨2, false⟩, ⟨4, true⟩, ⟨2, false⟩, ⟨7, false⟩, ⟨4, true⟩, ⟨4, true⟩, ⟨7, false⟩, ⟨7, false⟩]
  | 6 => [⟨6, false⟩, ⟨6, false⟩, ⟨0, false⟩, ⟨8, false⟩, ⟨3, false⟩, ⟨3, false⟩, ⟨5, false⟩, ⟨5, false⟩,
      ⟨4, false⟩, ⟨2, false⟩, ⟨2, false⟩, ⟨0, false⟩, ⟨5, false⟩, ⟨4, false⟩, ⟨6, false⟩, ⟨6, false⟩]
  | 7 => [⟨2, true⟩, ⟨5, true⟩, ⟨0, false⟩, ⟨8, false⟩, ⟨4, false⟩, ⟨4, false⟩, ⟨6, false⟩, ⟨6, false⟩,
      ⟨2, false⟩, ⟨4, true⟩, ⟨2, false⟩, ⟨7, false⟩, ⟨4, true⟩, ⟨4, true⟩, ⟨7, false⟩, ⟨7, false⟩]
  | 8 => [⟨2, false⟩, ⟨6, false⟩, ⟨2, false⟩, ⟨6, false⟩, ⟨3, false⟩, ⟨3, false⟩, ⟨3, false⟩, ⟨3, false⟩,
      ⟨2, false⟩, ⟨2, false⟩, ⟨2, false⟩, ⟨0, false⟩, ⟨4, false⟩, ⟨4, false⟩, ⟨4, false⟩, ⟨4, false⟩]
  | 9 => [⟨2, true⟩, ⟨6, false⟩, ⟨0, false⟩, ⟨0, false⟩, ⟨4, false⟩, ⟨4, false⟩, ⟨4, false⟩, ⟨4, false⟩,
      ⟨2, false⟩, ⟨5, false⟩, ⟨2, false⟩, ⟨0, false⟩, ⟨0, false⟩, ⟨5, false⟩, ⟨0, false⟩, ⟨0, false⟩]
  | 10 => [⟨2, false⟩, ⟨6, false⟩, ⟨2, false⟩, ⟨6, false⟩, ⟨3, false⟩, ⟨3, false⟩, ⟨3, false⟩, ⟨3, false⟩,
      ⟨2, false⟩, ⟨2, false⟩, ⟨2, false⟩, ⟨0, false⟩, ⟨4, false⟩, ⟨4, false⟩, ⟨4, false⟩, ⟨4, false⟩]
  | 11 => [⟨2, true⟩, ⟨5, true⟩, ⟨0, false⟩, ⟨5, true⟩, ⟨4, false⟩, ⟨4, false⟩, ⟨4, false⟩, ⟨4, false⟩,
      ⟨2, false⟩, ⟨4, true⟩, ⟨2, false⟩, ⟨0, false⟩, ⟨4, true⟩, ⟨4, true⟩, ⟨4, true⟩, ⟨4, true⟩]
  | 12 => [⟨2, false⟩, ⟨6, false⟩, ⟨2, false⟩, ⟨8, false⟩, ⟨3, false⟩, ⟨3, false⟩, ⟨5, false⟩, ⟨5, false⟩,
      ⟨2, false⟩, ⟨2, false⟩, ⟨2, false⟩, ⟨0, false⟩, ⟨4, false⟩, ⟨4, false⟩, ⟨6, false⟩, ⟨6, false⟩]
  | 13 => [⟨2, true⟩, ⟨5, true⟩, ⟨0, false⟩, ⟨8, false⟩, ⟨4, false⟩, ⟨4, false⟩, ⟨6, false⟩, ⟨6, false⟩,
      ⟨2, false⟩, ⟨4, true⟩, ⟨2, false⟩, ⟨7, false⟩, ⟨4, true⟩, ⟨4, true⟩, ⟨7, false⟩, ⟨7, false⟩]
  | 14 => [⟨2, false⟩, ⟨6, false⟩, ⟨2, false⟩, ⟨8, false⟩, ⟨3, false⟩, ⟨3, false⟩, ⟨5, false⟩, ⟨5, false⟩,
      ⟨2, false⟩, ⟨2, false⟩, ⟨2, false⟩, ⟨2, false⟩, ⟨4, false⟩, ⟨4, false⟩, ⟨6, false⟩, ⟨6, false⟩]
  | 15 => [⟨2, true⟩, ⟨5, true⟩, ⟨0, false⟩, ⟨8, false⟩, ⟨4, false⟩, ⟨4, false⟩, ⟨6, false⟩, ⟨6, false⟩,
      ⟨2, false⟩, ⟨4, true⟩, ⟨2, false⟩, ⟨7, false⟩, ⟨4, true⟩, ⟨4, true⟩, ⟨7, false⟩, ⟨7, false⟩]
  | _ => []

/-- `P_CYCLE_TABLE` by default (30_encoding R134). -/
def defaultCycleTable : List CycleCost := (List.range 16).flatMap cycleRow

/-- `P_NMI_CYCLES` by default (00_scope R6, D5). -/
def defaultNmiCycles : Nat := 7

/-- `P_RESET_CYCLES` by default (00_scope R6, D4). -/
def defaultResetCycles : Nat := 7

/-- `P_OAM_DMA_EXTRA_CYCLES` by default (00_scope R6, D28). -/
def defaultOamDmaExtraCycles : Nat := 0

/-- `P_PALETTE_MIRRORS` by default: the first members of the pairs, each aliasing itself less 0x10 (00_scope R6, D24). -/
def defaultPaletteMirrors : List Nat := [0x10, 0x14, 0x18, 0x1C]

/-- `P_INIT_FILL` by default (00_scope R6, D31). -/
def defaultInitFill : Byte := 0x00

/-- The default parameters (00_scope R6). -/
def defaultConfig : Config :=
  { cycleTable := defaultCycleTable
    nmiCycles := defaultNmiCycles
    resetCycles := defaultResetCycles
    oamDmaExtraCycles := defaultOamDmaExtraCycles
    apuReadMode := .stored
    oamDataWrite := .fault
    toggleMode := .separate
    paletteMirrors := defaultPaletteMirrors
    initFill := defaultInitFill
    entryPc := none }

end Sys2Proof.Machine
end

