-- ==== Sys2Proof/Machine/State.lean ====
section
/-! DEFINITION. The state of the machine as plain data (spec 10_state), the reasons a step can stop (60_exceptions
R370), and the state after reset (70_reset_and_hazards R402). -/

namespace Sys2Proof.Machine

/-- The direction of a refused access (60_exceptions R370). -/
inductive AccessDir where
  | read | write
  deriving DecidableEq, Repr

/-- Why a step stops. The spec's fatal errors and model faults (60_exceptions R370, R389), and one of the model's own. -/
inductive Fault where
  /-- `MemoryAccessError(dir, a)`, raised by the bus read or write whose decode hits a forbidden direction; `a` is the
  address as issued (60_exceptions R387). Safe: the spec ends the run here. -/
  | memoryAccess (dir : AccessDir) (a : Word)
  /-- `UnsupportedOpcodeError(op)`: UNSUPPORTED leaves `run = Failed` with it (60_exceptions R388, 46_undocumented R281),
  and it is what a step of the run so ended answers (log 1). Safe: the spec has no step there. -/
  | unsupportedOpcode (op : Byte)
  /-- `HostCallbackError`, raised by a tick whose frame callback returns failure; it carries the callback's failure
  value (60_exceptions R370, R380). Safe: the spec ends the run here. -/
  | hostCallback (why : Nat)
  /-- The model fault `FourScreenUnsupported`, raised by a nametable 2 or 3 access, or a render, under four-screen
  mirroring (50_ppu R316, R330; 60_exceptions R389). Safe: a stuck state of the spec. -/
  | fourScreenUnsupported
  /-- The model fault `ChrOutOfRange(a)`, raised by a pattern-table read beyond the CHR bytes (50_ppu R315, R328;
  60_exceptions R389). Safe: a stuck state of the spec. -/
  | chrOutOfRange (a : Word)
  /-- Raised by `step` when the run has halted: only Running has a step (10_state R34). Safe: the spec has no step. -/
  | notRunning
  deriving DecidableEq, Repr

/-- Why a term has no meaning. -/
inductive Refusal where
  /-- Raised by an arm of `exec` whose instruction has no meaning yet. Safe: nothing is claimed of it. -/
  | notModelled (mnemonic : String)
  /-- Raised by a meaning on a term that is no row of the opcode map (its mode is none its rule lists). The decoder
  gives no such term, so no step raises it. Safe: such a term is no instruction. -/
  | noSuchForm
  deriving DecidableEq, Repr

/-- `run` (10_state R34). -/
inductive RunState where
  | ready
  | running
  | halted
  | failed (e : Fault)
  deriving DecidableEq, Repr

/-- A write toggle: which write comes next (10_state R36). -/
inductive Toggle where
  | first | second
  deriving DecidableEq, Repr

/-- The interrupt signal `ppu.nmi` (10_state R38). -/
inductive NmiSignal where
  | inactive | active
  deriving DecidableEq, Repr

/-- Nametable mirroring (10_state R39). -/
inductive Mirroring where
  | horizontal | vertical | fourScreen
  deriving DecidableEq, Repr

/-- The mapper (10_state R40). -/
inductive Mapper where
  | nrom128 | nrom256
  deriving DecidableEq, Repr

/-- A read-only byte array: its length and its bytes (10_state R40). -/
structure Rom where
  size : Nat
  bytes : Memory
  deriving DecidableEq, Repr

/-- The cartridge (10_state R40). -/
structure Cart where
  prg : Rom
  chr : Rom
  mirroring : Mirroring
  mapperId : Byte
  trainer : Bool
  mapper : Mapper
  deriving DecidableEq, Repr

/-- The PPU (10_state R36 to R39). -/
structure Ppu where
  ctrl : Byte
  mask : Byte
  status : Byte
  oamAddr : Byte
  scrollX : Byte
  scrollY : Byte
  scrollToggle : Toggle
  addrToggle : Toggle
  addr : Word
  dataBuf : Byte
  vram : Memory
  palette : Memory
  oam : Memory
  scanline : Nat
  cycle : Nat
  nmi : NmiSignal
  mirroring : Mirroring
  deriving DecidableEq, Repr

/-- The joypad (10_state R41). -/
structure Pad where
  buttons : Byte
  strobe : Bool
  index : Nat
  deriving DecidableEq, Repr

/-- The host's reply to one frame callback (60_exceptions R379, R380): success, with the buttons it writes if it
writes them, or failure with its value. -/
inductive FrameReply where
  | success (buttons : Option Byte)
  | failure (why : Nat)
  deriving DecidableEq, Repr

/-- The state of the machine (10_state). `cfg` and `frameReplies` are the model's own fields (log 4, log 5). -/
structure State where
  /-- Accumulator (R20). -/
  a : Byte
  /-- Index X (R21). -/
  x : Byte
  /-- Index Y (R22). -/
  y : Byte
  /-- Stack pointer, an offset into page 1 (R24). -/
  sp : Byte
  /-- Status register (R25). -/
  p : Byte
  /-- Program counter (R23). -/
  pc : Word
  /-- Run state (R34). -/
  run : RunState
  /-- CPU RAM, 2048 bytes, by offset (R35). -/
  ram : Memory
  /-- APU storage, 22 bytes, by CPU address (R35). -/
  apu : Memory
  /-- CPU cycles ticked since power-on (R35). -/
  cycles : Nat
  ppu : Ppu
  cart : Cart
  pad : Pad
  /-- The parameters of 00_scope R6. -/
  cfg : Config
  /-- The replies to the coming frame callbacks, oldest first; with none left the host returns success and writes
  nothing. A free input: a statement about every state holds for every list (log 5). -/
  frameReplies : List FrameReply
  deriving DecidableEq, Repr

/-- The cartridge of an image with one PRG bank of zeros and no CHR: what stands in the slot while the host has
supplied no program (log 2). -/
def blankCart : Cart :=
  { prg := { size := 16384, bytes := [] }
    chr := { size := 0, bytes := [] }
    mirroring := .horizontal
    mapperId := 0x00
    trainer := false
    mapper := .nrom128 }

/-- The PPU at power-on with a fill of its storages (70_reset_and_hazards R400). -/
def Ppu.powerOn (fill : Byte) (m : Mirroring) : Ppu :=
  { ctrl := 0x00, mask := 0x00, status := 0x00, oamAddr := 0x00, scrollX := 0x00, scrollY := 0x00
    scrollToggle := .first, addrToggle := .first, addr := 0x0000, dataBuf := 0x00
    vram := Memory.filled (List.range 2048) fill, palette := Memory.filled (List.range 32) fill
    oam := Memory.filled (List.range 256) fill, scanline := 0, cycle := 0, nmi := .inactive, mirroring := m }

/-- The addresses of APU storage (10_state R35). -/
def apuAddresses : List Nat := (List.range 0x14).map (0x4000 + ·) ++ [0x4015, 0x4017]

/-- The machine after power-on and reset (70_reset_and_hazards R402), with the default parameters and the blank cartridge: its reset vector reads
0x0000, the clock stands at the default 7 reset cycles, the run is Ready. -/
def State.reset : State :=
  { a := 0x00, x := 0x00, y := 0x00, sp := 0xFD, p := 0x24, pc := 0x0000, run := .ready
    ram := Memory.filled (List.range 2048) defaultInitFill, apu := Memory.filled apuAddresses defaultInitFill, cycles := 7
    ppu := { Ppu.powerOn defaultInitFill .horizontal with cycle := 21 }
    cart := blankCart
    pad := { buttons := 0x00, strobe := false, index := 0 }
    cfg := defaultConfig
    frameReplies := [] }

end Sys2Proof.Machine
end

