-- ==== Sys2Proof/Machine/Flags.lean ====
section
/-! DEFINITION. The status register's flags and every flag computation (spec 10_state R25 to R33,
40_step_and_addressing R163 to R168, 45_stack_flags R258, R259). -/

namespace Sys2Proof.Machine

/-- The eight flags (10_state R25). -/
inductive Flag where
  | c | z | i | d | b | b2 | v | n
  deriving DecidableEq, Repr

/-- The bit position of a flag (10_state R25). -/
def Flag.index : Flag → Nat
  | .c => 0
  | .z => 1
  | .i => 2
  | .d => 3
  | .b => 4
  | .b2 => 5
  | .v => 6
  | .n => 7

/-- A flag of a status byte. -/
def getFlag (p : Byte) (f : Flag) : Bool := bitOf p f.index

/-- A status byte with one flag written. -/
def setFlag (p : Byte) (f : Flag) (b : Bool) : Byte := setBit p f.index b

/-- `SetZN(v)` on a status byte (40_step_and_addressing R163). -/
def flagsZN (p v : Byte) : Byte := setFlag (setFlag p .z (v == 0)) .n (bitOf v 7)

/-- `SetZN(v)` (40_step_and_addressing R163). -/
def setZN (v : Byte) (s : State) : State := { s with p := flagsZN s.p v }

/-- The 9-bit intermediate sum `A + m + C` (40_step_and_addressing R164). -/
def addSum (a m : Byte) (c : Bool) : Nat := a.toNat + m.toNat + c.toNat

/-- The result of `Add` (40_step_and_addressing R164). -/
def addResult (a m : Byte) (c : Bool) : Byte := BitVec.ofNat 8 (addSum a m c)

/-- The flags of `Add`: C from bit 8 of the sum, V where both operands' signs differ from the result's, Z and N from
the result (40_step_and_addressing R164). -/
def flagsAdd (p a m : Byte) : Byte :=
  let c := getFlag p .c
  let r := addResult a m c
  flagsZN (setFlag (setFlag p .c (decide (addSum a m c ≥ 256))) .v (bitOf ((a ^^^ r) &&& (m ^^^ r)) 7)) r

/-- `Add(m)` (40_step_and_addressing R164); P.D is not read (R169). -/
def addA (m : Byte) (s : State) : State :=
  { s with a := addResult s.a m (getFlag s.p .c), p := flagsAdd s.p s.a m }

/-- The flags of `Compare(reg, m)` (40_step_and_addressing R165). -/
def flagsCompare (p reg m : Byte) : Byte :=
  flagsZN (setFlag p .c (decide (reg.toNat ≥ m.toNat))) (reg - m)

/-- The flags of BIT: Z from `A & M`, V and N from the operand's bits 6 and 7 (42_arithmetic_logic R223). -/
def flagsBit (p a m : Byte) : Byte :=
  setFlag (setFlag (setFlag p .z ((a &&& m) == 0)) .v (bitOf m 6)) .n (bitOf m 7)

/-- `Asl(v)`: the result and the bit shifted out (40_step_and_addressing R167). -/
def aslFn (v : Byte) (_cin : Bool) : Byte × Bool := (v <<< 1, bitOf v 7)

/-- `Lsr(v)` (40_step_and_addressing R167). -/
def lsrFn (v : Byte) (_cin : Bool) : Byte × Bool := (v >>> 1, bitOf v 0)

/-- `Rol(v, cin)` (40_step_and_addressing R167). -/
def rolFn (v : Byte) (cin : Bool) : Byte × Bool := ((v <<< 1) ||| byteOfBool cin, bitOf v 7)

/-- `Ror(v, cin)` (40_step_and_addressing R167). -/
def rorFn (v : Byte) (cin : Bool) : Byte × Bool := ((v >>> 1) ||| (byteOfBool cin <<< 7), bitOf v 0)

/-- `Inc(v)` (40_step_and_addressing R168). -/
def incFn (v : Byte) : Byte := v + 1

/-- `Dec(v)` (40_step_and_addressing R168). -/
def decFn (v : Byte) : Byte := v - 1

/-- The byte PHP pushes: P with B and B2 set (45_stack_flags R258). -/
def pushedByPhp (p : Byte) : Byte := p ||| 0x30

/-- The byte NMI entry pushes: P with B clear and B2 set (60_exceptions R372). -/
def pushedByNmi (p : Byte) : Byte := (p &&& 0xEF) ||| 0x20

/-- P as pulled by PLP and RTI: B forced to 0 and B2 to 1 (45_stack_flags R259, 44_control_flow R244). -/
def pulledStatus (v : Byte) : Byte := (v &&& 0xEF) ||| 0x20

end Sys2Proof.Machine
end

