-- ==== Sys2Proof/Machine/Cartridge.lean ====
section
/-! DEFINITION. The cartridge: the iNES load and the mapper (spec 20_memory R89 to R99). -/

namespace Sys2Proof.Machine

/-- `RomFormatError(reason)` (60_exceptions R370): why a load fails, before any session exists. -/
inductive RomFormatError where
  | badMagic
  | unsupportedVersion
  | unsupportedMapper (id : Byte)
  | truncated
  deriving DecidableEq, Repr

/-- Byte k of an image. -/
def imgByte (img : List Byte) (k : Nat) : Byte := img.getD k 0

/-- The four magic bytes stand at the head of the image (20_memory R90). -/
def magicOk (img : List Byte) : Bool := img.take 4 == [0x4E, 0x45, 0x53, 0x1A]

/-- `cart.mirroring` from header byte 6 (20_memory R93). -/
def imgMirroring (img : List Byte) : Mirroring :=
  if bitOf (imgByte img 6) 3 then .fourScreen
  else if bitOf (imgByte img 6) 0 then .vertical else .horizontal

/-- `cart.mapperId` (20_memory R94). -/
def imgMapperId (img : List Byte) : Byte := (imgByte img 7 &&& 0xF0) ||| (imgByte img 6 >>> 4)

/-- `cart.trainer` (20_memory R95). -/
def imgTrainer (img : List Byte) : Bool := bitOf (imgByte img 6) 2

/-- `prgStart` (20_memory R95). -/
def imgPrgStart (img : List Byte) : Nat := 16 + if imgTrainer img then 512 else 0

/-- `prgLen` (20_memory R92, R95). -/
def imgPrgLen (img : List Byte) : Nat := 16384 * (imgByte img 4).toNat

/-- `chrStart` (20_memory R95). -/
def imgChrStart (img : List Byte) : Nat := imgPrgStart img + imgPrgLen img

/-- `chrLen` (20_memory R92, R95). -/
def imgChrLen (img : List Byte) : Nat := 8192 * (imgByte img 5).toNat

/-- The array of `len` bytes of the image from `start` on. -/
def imgRom (img : List Byte) (start len : Nat) : Rom :=
  { size := len, bytes := Memory.ofBytes 0 ((img.drop start).take len) }

/-- The mapper of an id and a PRG bank count (20_memory R96). -/
def mapperFor (id : Byte) (prgBanks : Nat) : Except RomFormatError Mapper :=
  if id ≠ 0 then .error (.unsupportedMapper id)
  else if prgBanks = 1 then .ok .nrom128
  else if prgBanks = 2 then .ok .nrom256
  else .error (.unsupportedMapper id)

/-- Cartridge load (20_memory R89): the checks in the order of R90 to R96, the first failing one gives the reason. -/
def Cart.load (img : List Byte) : Except RomFormatError Cart :=
  if !magicOk img then .error .badMagic
  else if img.length < 16 then .error .truncated
  else if (imgByte img 7 >>> 2) &&& 3 ≠ 0 then .error .unsupportedVersion
  else if img.length < imgChrStart img + imgChrLen img then .error .truncated
  else
    match mapperFor (imgMapperId img) (imgByte img 4).toNat with
    | .error e => .error e
    | .ok m =>
      .ok { prg := imgRom img (imgPrgStart img) (imgPrgLen img)
            chr := imgRom img (imgChrStart img) (imgChrLen img)
            mirroring := imgMirroring img
            mapperId := imgMapperId img
            trainer := imgTrainer img
            mapper := m }

/-- `cart.mapper` on a PRG-relative address (20_memory R97, R98). -/
def Mapper.offset : Mapper → Nat → Nat
  | .nrom128, r => r % 0x4000
  | .nrom256, r => r

/-- The PRG byte at a CPU address of 0x8000-0xFFFF (20_memory R68). -/
def prgByte (c : Cart) (n : Nat) : Byte := Memory.read c.prg.bytes (c.mapper.offset (n - 0x8000))

end Sys2Proof.Machine
end

