-- ==== Sys2Proof/Machine/PpuOps.lean ====
section
/-! DEFINITION. The PPU: its address space, ports, clock and OAM write-all (spec 50_ppu R300 to R325). -/

namespace Sys2Proof.Machine

/-- The VRAM bank of a logical nametable 0..3 (50_ppu R316). -/
def ntBank (m : Mirroring) (t : Nat) : Except Fault Nat :=
  match m with
  | .horizontal => .ok (if t < 2 then 0 else 1)
  | .vertical => .ok (t % 2)
  | .fourScreen => if t < 2 then .ok t else .error .fourScreenUnsupported

/-- `NtIndex(a)` for a in 0x2000-0x2FFF (50_ppu R316). -/
def ntIndex (m : Mirroring) (a : Nat) : Except Fault Nat :=
  match ntBank m ((a - 0x2000) / 0x400) with
  | .ok b => .ok (b * 0x400 + (a - 0x2000) % 0x400)
  | .error e => .error e

/-- 0x3000-0x3EFF mirrors 0x2000-0x2EFF (50_ppu R318). -/
def ntFold (a : Nat) : Nat := if a < 0x3000 then a else a - 0x1000

/-- `PalIndex(a)` for a in 0x3F00-0x3FFF (50_ppu R317). -/
def palIndex (cfg : Config) (a : Nat) : Nat :=
  let i := (a - 0x3F00) % 32
  if cfg.paletteMirrors.contains i then i - 0x10 else i

/-- `PpuRead(a)` (50_ppu R314 to R318). -/
def ppuRead (cfg : Config) (cart : Cart) (u : Ppu) (a : Word) : Except Fault Byte :=
  let n := a.toNat
  if n < 0x2000 then
    if n < cart.chr.size then .ok (Memory.read cart.chr.bytes n) else .error (.chrOutOfRange a)
  else if n < 0x3F00 then
    match ntIndex u.mirroring (ntFold n) with
    | .ok k => .ok (Memory.read u.vram k)
    | .error e => .error e
  else .ok (Memory.read u.palette (palIndex cfg n))

/-- `PpuWrite(a, v)` (50_ppu R314 to R318): CHR is read-only, a write there has no effect. -/
def ppuWrite (cfg : Config) (u : Ppu) (a : Word) (v : Byte) : Except Fault Ppu :=
  let n := a.toNat
  if n < 0x2000 then .ok u
  else if n < 0x3F00 then
    match ntIndex u.mirroring (ntFold n) with
    | .ok k => .ok { u with vram := Memory.write u.vram k v }
    | .error e => .error e
  else .ok { u with palette := Memory.write u.palette (palIndex cfg n) v }

/-- `RaiseNmi()` (50_ppu R323). -/
def raiseNmi (u : Ppu) : Ppu := { u with nmi := .active }

/-- Control write, port 0x2000 (50_ppu R301). -/
def writeCtrl (v : Byte) (u : Ppu) : Ppu :=
  let u' := { u with ctrl := v }
  if !bitOf u.ctrl 7 && bitOf v 7 && bitOf u.status 7 then raiseNmi u' else u'

/-- Status read, port 0x2002 (50_ppu R305): the byte and the PPU after it. -/
def readStatus (u : Ppu) : Byte × Ppu :=
  (u.status, { u with status := setBit u.status 7 false, addrToggle := .first, scrollToggle := .first })

/-- Assign the scroll toggle; under `P_TOGGLE_MODE = shared` both are one cell (10_state R36, 50_ppu R309). -/
def setScrollToggle (cfg : Config) (t : Toggle) (u : Ppu) : Ppu :=
  match cfg.toggleMode with
  | .separate => { u with scrollToggle := t }
  | .shared => { u with scrollToggle := t, addrToggle := t }

/-- Assign the address toggle; under `P_TOGGLE_MODE = shared` both are one cell (10_state R36, 50_ppu R310). -/
def setAddrToggle (cfg : Config) (t : Toggle) (u : Ppu) : Ppu :=
  match cfg.toggleMode with
  | .separate => { u with addrToggle := t }
  | .shared => { u with addrToggle := t, scrollToggle := t }

/-- Scroll write, port 0x2005 (50_ppu R309). -/
def writeScroll (cfg : Config) (v : Byte) (u : Ppu) : Ppu :=
  match u.scrollToggle with
  | .first => setScrollToggle cfg .second { u with scrollX := v }
  | .second => setScrollToggle cfg .first { u with scrollY := v }

/-- Address write, port 0x2006, high byte first, masked to 0x3FFF (50_ppu R310). -/
def writeAddr (cfg : Config) (v : Byte) (u : Ppu) : Ppu :=
  match u.addrToggle with
  | .first => setAddrToggle cfg .second { u with addr := word16 v (loByte u.addr) &&& 0x3FFF }
  | .second => setAddrToggle cfg .first { u with addr := word16 (hiByte u.addr) v &&& 0x3FFF }

/-- `Increment()` (50_ppu R313). -/
def incrementAddr (u : Ppu) : Ppu :=
  { u with addr := (u.addr + if bitOf u.ctrl 2 then 32 else 1) &&& 0x3FFF }

/-- Data read, port 0x2007 (50_ppu R311): buffered below the palette, immediate in it. -/
def readData (cfg : Config) (cart : Cart) (u : Ppu) : Except Fault (Byte × Ppu) :=
  match ppuRead cfg cart (incrementAddr u) u.addr with
  | .error e => .error e
  | .ok v =>
    if u.addr.toNat ≤ 0x3EFF then .ok (u.dataBuf, { incrementAddr u with dataBuf := v })
    else .ok (v, incrementAddr u)

/-- Data write, port 0x2007 (50_ppu R312). -/
def writeData (cfg : Config) (v : Byte) (u : Ppu) : Except Fault Ppu :=
  match ppuWrite cfg u u.addr v with
  | .ok u' => .ok (incrementAddr u')
  | .error e => .error e

/-- OAM data write, port 0x2004, where it is allowed (50_ppu R307). -/
def writeOamData (v : Byte) (u : Ppu) : Ppu :=
  { u with oam := Memory.write u.oam u.oamAddr.toNat v, oamAddr := u.oamAddr + 1 }

/-- `PpuOamWriteAll(data)` from byte i on (50_ppu R325): byte i goes to OAM address `(oamAddr + i) mod 256`. -/
def oamWriteFrom (start : Nat) : Nat → List Byte → Memory → Memory
  | _, [], m => m
  | i, v :: t, m => oamWriteFrom start (i + 1) t (Memory.write m ((start + i) % 256) v)

/-- `PpuOamWriteAll(data)` (50_ppu R325). -/
def oamWriteAll (data : List Byte) (u : Ppu) : Ppu :=
  { u with oam := oamWriteFrom u.oamAddr.toNat 0 data u.oam }

/-- The port number of an address of 0x2000-0x3FFF: its low three bits (50_ppu R300). -/
def portOf (n : Nat) : Nat := n % 8

/-- A CPU read of a port (50_ppu R300), with the error of a write-only port (20_memory R70). -/
def portRead (cfg : Config) (cart : Cart) (u : Ppu) (a : Word) : Except Fault (Byte × Ppu) :=
  match portOf a.toNat with
  | 2 => .ok (readStatus u)
  | 4 => .ok (Memory.read u.oam u.oamAddr.toNat, u)
  | 7 => readData cfg cart u
  | _ => .error (.memoryAccess .read a)

/-- A CPU write of a port (50_ppu R300), with the error of a read-only port (20_memory R71). -/
def portWrite (cfg : Config) (u : Ppu) (a : Word) (v : Byte) : Except Fault Ppu :=
  match portOf a.toNat with
  | 0 => .ok (writeCtrl v u)
  | 1 => .ok { u with mask := v }
  | 3 => .ok { u with oamAddr := v }
  | 4 =>
    match cfg.oamDataWrite with
    | .allowed => .ok (writeOamData v u)
    | .fault => .error (.memoryAccess .write a)
  | 5 => .ok (writeScroll cfg v u)
  | 6 => .ok (writeAddr cfg v u)
  | 7 => writeData cfg v u
  | _ => .error (.memoryAccess .write a)

/-- Sprite-0 hit at the accumulated cycle (50_ppu R319, R320). -/
def spriteZeroTest (u : Ppu) : Ppu :=
  if (Memory.read u.oam 0).toNat = u.scanline ∧ (Memory.read u.oam 3).toNat ≤ u.cycle ∧ bitOf u.mask 4 = true then
    { u with status := setBit u.status 6 true }
  else u

/-- What happens when the scanline becomes 241 (50_ppu R321). -/
def vblankStart (u : Ppu) : Ppu :=
  let u' := { u with status := setBit u.status 7 true }
  if bitOf u.ctrl 7 then raiseNmi u' else u'

/-- What happens when the scanline becomes 262 (50_ppu R322). -/
def frameWrap (u : Ppu) : Ppu :=
  { u with scanline := 0, status := setBit (setBit u.status 7 false) 6 false, nmi := .inactive }

/-- One turn of the tick's loop: the next scanline (50_ppu R319). -/
def nextScanline (u : Ppu) : Ppu :=
  let u1 := { u with cycle := u.cycle - 341, scanline := u.scanline + 1 }
  let u2 := if u1.scanline = 241 then vblankStart u1 else u1
  if u2.scanline = 262 then frameWrap u2 else u2

/-- The tick's `while ppu.cycle >= 341` (50_ppu R319), at most `k` turns. -/
def scanlineLoop : Nat → Ppu → Ppu
  | 0, u => u
  | k + 1, u => if u.cycle ≥ 341 then scanlineLoop k (nextScanline u) else u

/-- `PpuTick(n)` (50_ppu R319); `cycle / 341` turns end the loop. -/
def ppuTick (n : Nat) (u : Ppu) : Ppu :=
  let u1 := spriteZeroTest { u with cycle := u.cycle + n }
  scanlineLoop (u1.cycle / 341) u1

end Sys2Proof.Machine
end

