-- ==== Sys2Proof/Machine/Ops.lean ====
section
/-! DEFINITION. The named operations over memory and registers: the bus decoder, the joypad and OAM DMA, the bus clock
and the frame callback, 16-bit reads and the stack, taking an NMI and returning from one (spec 20_memory,
60_exceptions R371, R372, R379, 44_control_flow R244). Each answers the state after it, or the fault that ends the
run. -/

namespace Sys2Proof.Machine

/-- What stands at a CPU address (20_memory R61, R62). -/
inductive Region where
  /-- CPU RAM at an offset below 0x800 (R63). -/
  | ram (k : Nat)
  /-- A PPU port (R64). -/
  | port
  /-- 0x4014, OAM DMA (R86). -/
  | oamDma
  /-- 0x4016, the joypad (R87, R88). -/
  | joypad
  /-- APU storage at its CPU address (R65, R66). -/
  | apu (n : Nat)
  /-- 0x4018-0x7FFF (R67). -/
  | unmapped
  /-- PRG ROM at its CPU address (R68, R69). -/
  | prg (n : Nat)
  deriving DecidableEq, Repr

/-- The bus decoder (20_memory R61, R62): the first matching row wins. -/
def regionOf (a : Word) : Region :=
  let n := a.toNat
  if n < 0x2000 then .ram (n % 0x0800)
  else if n < 0x4000 then .port
  else if n = 0x4014 then .oamDma
  else if n = 0x4016 then .joypad
  else if n < 0x4018 then .apu n
  else if n < 0x8000 then .unmapped
  else .prg n

/-- The joypad write (20_memory R87). -/
def padWrite (v : Byte) (p : Pad) : Pad :=
  { p with strobe := bitOf v 0, index := if bitOf v 0 then 0 else p.index }

/-- The joypad read (20_memory R88): the byte and the joypad after it. -/
def padRead (p : Pad) : Byte × Pad :=
  if p.strobe then (byteOfBool (bitOf p.buttons 0), { p with index := 0 })
  else if p.index ≥ 8 then (0x01, p)
  else (byteOfBool (bitOf p.buttons p.index), { p with index := p.index + 1 })

/-- The APU storage read (20_memory R65). -/
def apuRead (s : State) (n : Nat) : Byte :=
  match s.cfg.apuReadMode with
  | .stored => Memory.read s.apu n
  | .zero => 0x00

/-- `MemRead(a, 1)` (20_memory R61), with its side effects and errors. -/
def memRead (s : State) (a : Word) : Except Fault (Byte × State) :=
  match regionOf a with
  | .ram k => .ok (Memory.read s.ram k, s)
  | .port =>
    match portRead s.cfg s.cart s.ppu a with
    | .ok (v, u) => .ok (v, { s with ppu := u })
    | .error e => .error e
  | .oamDma => .error (.memoryAccess .read a)
  | .joypad => .ok ((padRead s.pad).1, { s with pad := (padRead s.pad).2 })
  | .apu n => .ok (apuRead s n, s)
  | .unmapped => .ok (0x00, s)
  | .prg n => .ok (prgByte s.cart n, s)

/-- `HostFrame()` (60_exceptions R379, R380): the host's next reply. On success it may have written the buttons, and
nothing else; failure raises HostCallbackError. -/
def hostFrame (s : State) : Except Fault State :=
  match s.frameReplies with
  | [] => .ok s
  | .success none :: t => .ok { s with frameReplies := t }
  | .success (some b) :: t => .ok { s with frameReplies := t, pad := { s.pad with buttons := b } }
  | .failure why :: _ => .error (.hostCallback why)

/-- The clock part of `BusTick(n)`: n CPU cycles, 3n PPU cycles (20_memory R100). -/
def clock (n : Nat) (s : State) : State :=
  { s with cycles := s.cycles + n, ppu := ppuTick (3 * n) s.ppu }

/-- `BusTick(n)` (20_memory R100): the clock, and the frame callback exactly when the signal went from Inactive to
Active during it. -/
def busTick (s : State) (n : Nat) : Except Fault State :=
  if s.ppu.nmi = .inactive ∧ (clock n s).ppu.nmi = .active then hostFrame (clock n s) else .ok (clock n s)

/-- `k` bus reads from address a on, each through the full decoder (20_memory R86). -/
def readRun : Nat → Word → State → Except Fault (List Byte × State)
  | 0, _, s => .ok ([], s)
  | k + 1, a, s => do
    let r ← memRead s a
    let t ← readRun k (a + 1) r.2
    .ok (r.1 :: t.1, t.2)

/-- The OAM-DMA transfer of page v (20_memory R86): the 256 reads, the OAM write-all, the extra tick if any. -/
def oamDma (v : Byte) (s : State) : Except Fault State := do
  let r ← readRun 256 (word16 v 0) s
  let s1 := { r.2 with ppu := oamWriteAll r.1 r.2.ppu }
  if s1.cfg.oamDmaExtraCycles > 0 then busTick s1 s1.cfg.oamDmaExtraCycles else .ok s1

/-- `MemWrite(a, 1, v)` (20_memory R62), with its effects and errors. -/
def memWrite (s : State) (a : Word) (v : Byte) : Except Fault State :=
  match regionOf a with
  | .ram k => .ok { s with ram := Memory.write s.ram k v }
  | .port =>
    match portWrite s.cfg s.ppu a v with
    | .ok u => .ok { s with ppu := u }
    | .error e => .error e
  | .oamDma => oamDma v s
  | .joypad => .ok { s with pad := padWrite v s.pad }
  | .apu n => .ok { s with apu := Memory.write s.apu n v }
  | .unmapped => .ok s
  | .prg _ => .error (.memoryAccess .write a)

/-- `Read16(a)`: low byte first, the second address modulo 2^16 (20_memory R72). -/
def read16 (s : State) (a : Word) : Except Fault (Word × State) := do
  let lo ← memRead s a
  let hi ← memRead lo.2 (a + 1)
  .ok (word16 hi.1 lo.1, hi.2)

/-- `Read16ZP(z)`: both bytes in page 0 (20_memory R73). -/
def read16Zp (s : State) (z : Byte) : Except Fault (Word × State) := do
  let lo ← memRead s (zext16 z)
  let hi ← memRead lo.2 (zext16 (z + 1))
  .ok (word16 hi.1 lo.1, hi.2)

/-- The physical stack address `0x0100 + offset` (20_memory R74). -/
def stackAddr (sp : Byte) : Word := 0x0100 + zext16 sp

/-- `Push(v)`: write, then decrement (20_memory R75). -/
def push (s : State) (v : Byte) : Except Fault State := do
  let s1 ← memWrite s (stackAddr s.sp) v
  .ok { s1 with sp := s1.sp - 1 }

/-- `Pop()`: increment, then read (20_memory R76). -/
def pop (s : State) : Except Fault (Byte × State) :=
  let s1 := { s with sp := s.sp + 1 }
  memRead s1 (stackAddr s1.sp)

/-- `Push16(v)`: high byte first (20_memory R77). -/
def push16 (s : State) (w : Word) : Except Fault State := do
  let s1 ← push s (hiByte w)
  push s1 (loByte w)

/-- `Pop16()`: low byte first (20_memory R77). -/
def pop16 (s : State) : Except Fault (Word × State) := do
  let lo ← pop s
  let hi ← pop lo.2
  .ok (word16 hi.1 lo.1, hi.2)

/-- The poll's consumption of the interrupt (60_exceptions R371). -/
def consumeNmi (s : State) : State := { s with ppu := { s.ppu with nmi := .inactive } }

/-- The NMI vector's address (20_memory R82). -/
def nmiVector : Word := 0xFFFA

/-- The reset vector's address (20_memory R82). -/
def resetVector : Word := 0xFFFC

/-- `NmiEntry()` (60_exceptions R372): taking the interrupt, the one exception entry of this hardware. It saves PC,
high byte first, then P with B clear and B2 set; sets I; loads PC from 0xFFFA; charges `P_NMI_CYCLES`. -/
def nmiEntry (s : State) : Except Fault State := do
  let s1 ← push16 s s.pc
  let s2 ← push s1 (pushedByNmi s1.p)
  let r ← read16 { s2 with p := setFlag s2.p .i true } nmiVector
  busTick { r.2 with pc := r.1 } r.2.cfg.nmiCycles

/-- The return from interrupt (44_control_flow R244, 60_exceptions R373): pull P (B forced 0, B2 forced 1), then PC. -/
def returnFromInterrupt (s : State) : Except Fault State := do
  let v ← pop s
  let w ← pop16 { v.2 with p := pulledStatus v.1 }
  .ok { w.2 with pc := w.1 }

/-- `Peek(a)` (20_memory R102): the host's side-effect-free view of an address. `draw` is the byte an I/O address gives:
any byte, as the spec takes it (log 8). -/
def peek (s : State) (draw : Byte) (a : Word) : Byte :=
  match regionOf a with
  | .ram k => Memory.read s.ram k
  | .apu n => apuRead s n
  | .unmapped => 0x00
  | .prg n => prgByte s.cart n
  | .port | .oamDma | .joypad => draw

end Sys2Proof.Machine
end

