-- ==== Sys2Proof/Machine/Operands.lean ====
section
/-! DEFINITION. The addressing modes (spec 40_step_and_addressing R148 to R161), the operand accesses (R166), and the
part of a step every instruction shares after the fetch: operand address, page-cross charge, handler, base cycles, PC
advance (R144 to R147). Throughout, PC holds the opcode's address plus 1 (10_state R23). -/

namespace Sys2Proof.Machine

/-- Where an instruction's operand is: what the address computation gives the handler. -/
inductive Place where
  /-- No operand (Implied, and Relative, whose handler reads its own offset). -/
  | none
  /-- The accumulator (R149). -/
  | acc
  /-- The immediate byte, which the fetch has read (R150). -/
  | value (v : Byte)
  /-- The effective address. -/
  | mem (a : Word)
  deriving DecidableEq, Repr

/-- The high byte's address of the JMP-indirect pointer, with the page-boundary bug (R157). -/
def pointerHigh (ptr : Word) : Word :=
  if loByte ptr = 0xFF then ptr &&& 0xFF00 else ptr + 1

/-- An indexed absolute address: the sum modulo 2^16, and whether it crosses a page (R155, R156, R159). -/
def indexed (base : Word) (index : Byte) (s : State) : Place × Bool × State :=
  (.mem (base + zext16 index), cross base (base + zext16 index), s)

/-- The operand's place, whether the mode crossed a page, and the state after the pointer reads (R148 to R160). The
operand's own bytes have been read by the fetch. -/
def address (o : Operand) (s : State) : Except Fault (Place × Bool × State) :=
  match o with
  | .imp => .ok (.none, false, s)
  | .acc => .ok (.acc, false, s)
  | .imm v => .ok (.value v, false, s)
  | .zp z => .ok (.mem (zext16 z), false, s)
  | .zpx z => .ok (.mem (zext16 (z + s.x)), false, s)
  | .zpy z => .ok (.mem (zext16 (z + s.y)), false, s)
  | .abs a => .ok (.mem a, false, s)
  | .abx a => .ok (indexed a s.x s)
  | .aby a => .ok (indexed a s.y s)
  | .ind a => do
    let lo ← memRead s a
    let hi ← memRead lo.2 (pointerHigh a)
    .ok (.mem (word16 hi.1 lo.1), false, hi.2)
  | .izx z => do
    let w ← read16Zp s (z + s.x)
    .ok (.mem w.1, false, w.2)
  | .izy z => do
    let w ← read16Zp s z
    .ok (indexed w.1 w.2.y w.2)
  | .rel _ => .ok (.none, false, s)

/-- `Load(mode, ea)` (R166). No form reads a `none`. -/
def loadPlace (pl : Place) (s : State) : Except Fault (Byte × State) :=
  match pl with
  | .none => .ok (0, s)
  | .acc => .ok (s.a, s)
  | .value v => .ok (v, s)
  | .mem a => memRead s a

/-- `StoreBack(mode, ea, v)` (R166). No form stores to a `none` or a `value`. -/
def storePlace (pl : Place) (v : Byte) (s : State) : Except Fault State :=
  match pl with
  | .acc => .ok { s with a := v }
  | .mem a => memWrite s a v
  | .none | .value _ => .ok s

/-- An opcode's entry of `P_CYCLE_TABLE` (30_encoding R134). -/
def cycleCost (cfg : Config) (op : Byte) : CycleCost := cfg.cycleTable.getD op.toNat ⟨0, false⟩

/-- The page-cross charge of step 4 (R144). -/
def pageCrossTick (op : Byte) (crossed : Bool) (s : State) : Except Fault State :=
  if crossed && (cycleCost s.cfg op).pageCross then busTick s 1 else .ok s

/-- Step 7 (R147): PC advances by `length - 1` unless its value changed since the dispatch. -/
def advancePc (before : Word) (length : Nat) (s : State) : State :=
  if s.pc = before then { s with pc := s.pc + BitVec.ofNat 16 (length - 1) } else s

/-- Steps 4 to 7 of an instruction (R144 to R147) around its handler. -/
def runRow (op : Byte) (o : Operand) (handler : Place → State → Except Fault State) (s : State) : Except Fault State := do
  let r ← address o s
  let s1 ← pageCrossTick op r.2.1 r.2.2
  let s2 ← handler r.1 s1
  let s3 ← busTick s2 (cycleCost s2.cfg op).base
  .ok (advancePc s1.pc o.mode.length s3)

/-- A machine result as a step's outcome. -/
def outcome : Except Fault State → Host.Outcome State Fault Refusal
  | .ok s => .next s
  | .error e => .fault e

/-- An instruction with its handler: steps 4 to 7 under the row its encoding names. -/
def perform (i : Instr) (handler : Place → State → Except Fault State) (s : State) : Host.Outcome State Fault Refusal :=
  match i.opcode with
  | some op => outcome (runRow op i.operand handler s)
  | none => .refused .noSuchForm

/-- A handler that reads its operand and computes with it. -/
def reading (f : Byte → State → State) (pl : Place) (s : State) : Except Fault State := do
  let r ← loadPlace pl s
  .ok (f r.1 r.2)

/-- A handler that stores a register's value (or the values of two) at its operand. -/
def storing (f : State → Byte) (pl : Place) (s : State) : Except Fault State := storePlace pl (f s) s

/-- A handler that only changes registers. -/
def pure1 (f : State → State) (_ : Place) (s : State) : Except Fault State := .ok (f s)

/-- A read-modify-write handler: one read, one write of the function's result, then what follows with the result and
the bit shifted out (R166, R167). The function sees the carry flag. -/
def modifying (f : Byte → Bool → Byte × Bool) (after : Byte → Bool → State → State) (pl : Place) (s : State) :
    Except Fault State := do
  let r ← loadPlace pl s
  let q := f r.1 (getFlag r.2.p .c)
  let s1 ← storePlace pl q.1 r.2
  .ok (after q.1 q.2 s1)

end Sys2Proof.Machine
end

