-- ==== Sys2Proof/Machine/LoadStore.lean ====
section
/-! DEFINITION. Loads, stores and register transfers (spec 41_load_store_transfer R200 to R211). -/

namespace Sys2Proof.Machine

/-- A value into A, with `SetZN`. -/
def putA (v : Byte) (s : State) : State := setZN v { s with a := v }

/-- A value into X, with `SetZN`. -/
def putX (v : Byte) (s : State) : State := setZN v { s with x := v }

/-- A value into Y, with `SetZN`. -/
def putY (v : Byte) (s : State) : State := setZN v { s with y := v }

/-- LDA (R200): A from memory, Z and N. -/
def execLda (o : Operand) (s : State) : Host.Outcome State Fault Refusal :=
  perform (.lda o) (reading putA) s

/-- LDX (R201): X from memory, Z and N. -/
def execLdx (o : Operand) (s : State) : Host.Outcome State Fault Refusal :=
  perform (.ldx o) (reading putX) s

/-- LDY (R202): Y from memory, Z and N. -/
def execLdy (o : Operand) (s : State) : Host.Outcome State Fault Refusal :=
  perform (.ldy o) (reading putY) s

/-- STA (R203): A to memory, no flag. -/
def execSta (o : Operand) (s : State) : Host.Outcome State Fault Refusal :=
  perform (.sta o) (storing fun s => s.a) s

/-- STX (R204): X to memory, no flag. -/
def execStx (o : Operand) (s : State) : Host.Outcome State Fault Refusal :=
  perform (.stx o) (storing fun s => s.x) s

/-- STY (R205): Y to memory, no flag. -/
def execSty (o : Operand) (s : State) : Host.Outcome State Fault Refusal :=
  perform (.sty o) (storing fun s => s.y) s

/-- TAX (R206): X from A, Z and N. -/
def execTax (s : State) : Host.Outcome State Fault Refusal :=
  perform .tax (pure1 fun s => putX s.a s) s

/-- TAY (R207): Y from A, Z and N. -/
def execTay (s : State) : Host.Outcome State Fault Refusal :=
  perform .tay (pure1 fun s => putY s.a s) s

/-- TXA (R208): A from X, Z and N. -/
def execTxa (s : State) : Host.Outcome State Fault Refusal :=
  perform .txa (pure1 fun s => putA s.x s) s

/-- TYA (R209): A from Y, Z and N. -/
def execTya (s : State) : Host.Outcome State Fault Refusal :=
  perform .tya (pure1 fun s => putA s.y s) s

/-- TSX (R210): X from SP, Z and N. -/
def execTsx (s : State) : Host.Outcome State Fault Refusal :=
  perform .tsx (pure1 fun s => putX s.sp s) s

/-- TXS (R211): SP from X, no flag. -/
def execTxs (s : State) : Host.Outcome State Fault Refusal :=
  perform .txs (pure1 fun s => { s with sp := s.x }) s

end Sys2Proof.Machine
end

