-- ==== Sys2Proof/Machine/Arithmetic.lean ====
section
/-! DEFINITION. Arithmetic, logic, compare, bit test, increment and decrement (spec 42_arithmetic_logic R215 to R229). -/

namespace Sys2Proof.Machine

/-- `Compare(reg, m)` on the state: only C, Z and N change (40_step_and_addressing R165). -/
def compareWith (reg : State → Byte) (m : Byte) (s : State) : State := { s with p := flagsCompare s.p (reg s) m }

/-- ADC (R215): `Add(M)`; C, Z, V, N. -/
def execAdc (o : Operand) (s : State) : Host.Outcome State Fault Refusal :=
  perform (.adc o) (reading addA) s

/-- SBC (R216): `Add(~M)`; C, Z, V, N. -/
def execSbc (o : Operand) (s : State) : Host.Outcome State Fault Refusal :=
  perform (.sbc o) (reading (fun m => addA (~~~m))) s

/-- AND (R217); Z, N. -/
def execAnd (o : Operand) (s : State) : Host.Outcome State Fault Refusal :=
  perform (.and o) (reading (fun m s => putA (s.a &&& m) s)) s

/-- ORA (R218); Z, N. -/
def execOra (o : Operand) (s : State) : Host.Outcome State Fault Refusal :=
  perform (.ora o) (reading (fun m s => putA (s.a ||| m) s)) s

/-- EOR (R219); Z, N. -/
def execEor (o : Operand) (s : State) : Host.Outcome State Fault Refusal :=
  perform (.eor o) (reading (fun m s => putA (s.a ^^^ m) s)) s

/-- CMP (R220): `Compare(A, M)`; C, Z, N. -/
def execCmp (o : Operand) (s : State) : Host.Outcome State Fault Refusal :=
  perform (.cmp o) (reading (compareWith fun s => s.a)) s

/-- CPX (R221): `Compare(X, M)`; C, Z, N. -/
def execCpx (o : Operand) (s : State) : Host.Outcome State Fault Refusal :=
  perform (.cpx o) (reading (compareWith fun s => s.x)) s

/-- CPY (R222): `Compare(Y, M)`; C, Z, N. -/
def execCpy (o : Operand) (s : State) : Host.Outcome State Fault Refusal :=
  perform (.cpy o) (reading (compareWith fun s => s.y)) s

/-- BIT (R223): Z from `A & M`, V and N from M. -/
def execBit (o : Operand) (s : State) : Host.Outcome State Fault Refusal :=
  perform (.bit o) (reading (fun m s => { s with p := flagsBit s.p s.a m })) s

/-- INC (R224): memory plus one; Z, N. -/
def execInc (o : Operand) (s : State) : Host.Outcome State Fault Refusal :=
  perform (.inc o) (modifying (fun v _ => (incFn v, false)) fun r _ => setZN r) s

/-- DEC (R225): memory less one; Z, N. -/
def execDec (o : Operand) (s : State) : Host.Outcome State Fault Refusal :=
  perform (.dec o) (modifying (fun v _ => (decFn v, false)) fun r _ => setZN r) s

/-- INX (R226); Z, N. -/
def execInx (s : State) : Host.Outcome State Fault Refusal :=
  perform .inx (pure1 fun s => putX (incFn s.x) s) s

/-- INY (R227); Z, N. -/
def execIny (s : State) : Host.Outcome State Fault Refusal :=
  perform .iny (pure1 fun s => putY (incFn s.y) s) s

/-- DEX (R228); Z, N. -/
def execDex (s : State) : Host.Outcome State Fault Refusal :=
  perform .dex (pure1 fun s => putX (decFn s.x) s) s

/-- DEY (R229); Z, N. -/
def execDey (s : State) : Host.Outcome State Fault Refusal :=
  perform .dey (pure1 fun s => putY (decFn s.y) s) s

end Sys2Proof.Machine
end

