-- ==== Sys2Proof/Machine/Control.lean ====
section
/-! DEFINITION. Jumps, subroutines, returns, branches, BRK and NOP (spec 44_control_flow R240 to R254, 40_step_and_addressing
R172). -/

namespace Sys2Proof.Machine

/-- `PC <- ea` (R240, R241). -/
def jumpHandler (pl : Place) (s : State) : Except Fault State :=
  match pl with
  | .mem a => .ok { s with pc := a }
  | _ => .ok s

/-- JSR's handler: push the address of its own last byte, high byte first, then jump (R242). -/
def callHandler (target : Word) (_ : Place) (s : State) : Except Fault State := do
  let s1 ← push16 s (s.pc + 1)
  .ok { s1 with pc := target }

/-- RTS's handler (R243). -/
def returnHandler (_ : Place) (s : State) : Except Fault State := do
  let r ← pop16 s
  .ok { r.2 with pc := r.1 + 1 }

/-- A taken branch's second extra cycle: the target is on another page than the next instruction (R172). -/
def branchCrossTick (next target : Word) (s : State) : Except Fault State :=
  if cross next target then busTick s 1 else .ok s

/-- `Branch(cond)` with the offset byte `d` (40_step_and_addressing R172). Taken: one cycle, the read of the offset
byte at PC (for its side effects and errors: its value is `d`, which the fetch looked ahead for, log 11), one more
cycle when the target is on another page than the next instruction, and PC. Not taken: nothing, and no read. -/
def branchHandler (cond : Byte → Bool) (d : Byte) (_ : Place) (s : State) : Except Fault State :=
  if cond s.p then do
    let s1 ← busTick s 1
    let r ← memRead s1 s1.pc
    let next := r.2.pc + 1
    let target := next + sext16 d
    let s2 ← branchCrossTick next target r.2
    .ok { s2 with pc := target }
  else .ok s

/-- JMP absolute and indirect (R240, R241). -/
def execJmp (o : Operand) (s : State) : Host.Outcome State Fault Refusal :=
  perform (.jmp o) jumpHandler s

/-- JSR (R242). -/
def execJsr (a : Word) (s : State) : Host.Outcome State Fault Refusal :=
  perform (.jsr a) (callHandler a) s

/-- RTS (R243). -/
def execRts (s : State) : Host.Outcome State Fault Refusal :=
  perform .rts returnHandler s

/-- RTI (R244): the return from an NMI. -/
def execRti (s : State) : Host.Outcome State Fault Refusal :=
  perform .rti (fun _ s => returnFromInterrupt s) s

/-- BCC (R245): C = 0. -/
def execBcc (d : Byte) (s : State) : Host.Outcome State Fault Refusal :=
  perform (.bcc d) (branchHandler (fun p => !getFlag p .c) d) s

/-- BCS (R246): C = 1. -/
def execBcs (d : Byte) (s : State) : Host.Outcome State Fault Refusal :=
  perform (.bcs d) (branchHandler (fun p => getFlag p .c) d) s

/-- BEQ (R247): Z = 1. -/
def execBeq (d : Byte) (s : State) : Host.Outcome State Fault Refusal :=
  perform (.beq d) (branchHandler (fun p => getFlag p .z) d) s

/-- BNE (R248): Z = 0. -/
def execBne (d : Byte) (s : State) : Host.Outcome State Fault Refusal :=
  perform (.bne d) (branchHandler (fun p => !getFlag p .z) d) s

/-- BMI (R249): N = 1. -/
def execBmi (d : Byte) (s : State) : Host.Outcome State Fault Refusal :=
  perform (.bmi d) (branchHandler (fun p => getFlag p .n) d) s

/-- BPL (R250): N = 0. -/
def execBpl (d : Byte) (s : State) : Host.Outcome State Fault Refusal :=
  perform (.bpl d) (branchHandler (fun p => !getFlag p .n) d) s

/-- BVC (R251): V = 0. -/
def execBvc (d : Byte) (s : State) : Host.Outcome State Fault Refusal :=
  perform (.bvc d) (branchHandler (fun p => !getFlag p .v) d) s

/-- BVS (R252): V = 1. -/
def execBvs (d : Byte) (s : State) : Host.Outcome State Fault Refusal :=
  perform (.bvs d) (branchHandler (fun p => getFlag p .v) d) s

/-- BRK (R253): the run halts; no push, no vector, no flag, no tick, and PC stays at the opcode's address plus 1. -/
def execBrk (s : State) : Host.Outcome State Fault Refusal :=
  .next { s with run := .halted }

/-- NOP (R254). -/
def execNop (s : State) : Host.Outcome State Fault Refusal :=
  perform .nop (pure1 fun s => s) s

end Sys2Proof.Machine
end

