-- ==== Sys2Proof/Machine/Shift.lean ====
section
/-! DEFINITION. Shifts and rotates, on the accumulator or on memory (spec 43_shift_rotate R232 to R235). -/

namespace Sys2Proof.Machine

/-- The flags of a shift or rotate: C the bit shifted out, Z and N from the result (R232 to R235). -/
def shiftFlags (r : Byte) (c : Bool) (s : State) : State := { s with p := flagsZN (setFlag s.p .c c) r }

/-- ASL (R232); C, Z, N. -/
def execAsl (o : Operand) (s : State) : Host.Outcome State Fault Refusal :=
  perform (.asl o) (modifying aslFn shiftFlags) s

/-- LSR (R233); C, Z, N. -/
def execLsr (o : Operand) (s : State) : Host.Outcome State Fault Refusal :=
  perform (.lsr o) (modifying lsrFn shiftFlags) s

/-- ROL (R234); C, Z, N. -/
def execRol (o : Operand) (s : State) : Host.Outcome State Fault Refusal :=
  perform (.rol o) (modifying rolFn shiftFlags) s

/-- ROR (R235); C, Z, N. -/
def execRor (o : Operand) (s : State) : Host.Outcome State Fault Refusal :=
  perform (.ror o) (modifying rorFn shiftFlags) s

end Sys2Proof.Machine
end

