-- ==== Sys2Proof/Machine/StackFlags.lean ====
section
/-! DEFINITION. Stack and flag instructions (spec 45_stack_flags R256 to R266). -/

namespace Sys2Proof.Machine

/-- PLA's handler (R257). -/
def pullA (_ : Place) (s : State) : Except Fault State := do
  let r ← pop s
  .ok (putA r.1 r.2)

/-- PLP's handler (R259). -/
def pullP (_ : Place) (s : State) : Except Fault State := do
  let r ← pop s
  .ok { r.2 with p := pulledStatus r.1 }

/-- PHA (R256): `Push(A)`. -/
def execPha (s : State) : Host.Outcome State Fault Refusal :=
  perform .pha (fun _ s => push s s.a) s

/-- PLA (R257): A from the stack; Z, N. -/
def execPla (s : State) : Host.Outcome State Fault Refusal :=
  perform .pla pullA s

/-- PHP (R258): `Push(P | 0x30)`. -/
def execPhp (s : State) : Host.Outcome State Fault Refusal :=
  perform .php (fun _ s => push s (pushedByPhp s.p)) s

/-- PLP (R259): P from the stack, B forced to 0 and B2 to 1. -/
def execPlp (s : State) : Host.Outcome State Fault Refusal :=
  perform .plp pullP s

/-- CLC (R260): C := 0. -/
def execClc (s : State) : Host.Outcome State Fault Refusal :=
  perform .clc (pure1 fun s => { s with p := setFlag s.p .c false }) s

/-- SEC (R261): C := 1. -/
def execSec (s : State) : Host.Outcome State Fault Refusal :=
  perform .sec (pure1 fun s => { s with p := setFlag s.p .c true }) s

/-- CLI (R262): I := 0. -/
def execCli (s : State) : Host.Outcome State Fault Refusal :=
  perform .cli (pure1 fun s => { s with p := setFlag s.p .i false }) s

/-- SEI (R263): I := 1. -/
def execSei (s : State) : Host.Outcome State Fault Refusal :=
  perform .sei (pure1 fun s => { s with p := setFlag s.p .i true }) s

/-- CLD (R264): D := 0. -/
def execCld (s : State) : Host.Outcome State Fault Refusal :=
  perform .cld (pure1 fun s => { s with p := setFlag s.p .d false }) s

/-- SED (R265): D := 1. -/
def execSed (s : State) : Host.Outcome State Fault Refusal :=
  perform .sed (pure1 fun s => { s with p := setFlag s.p .d true }) s

/-- CLV (R266): V := 0. -/
def execClv (s : State) : Host.Outcome State Fault Refusal :=
  perform .clv (pure1 fun s => { s with p := setFlag s.p .v false }) s

end Sys2Proof.Machine
end

