-- ==== Sys2Proof/Machine/Undocumented.lean ====
section
/-! DEFINITION. Undocumented opcodes and the unsupported codes (spec 46_undocumented R270 to R281): composites of the documented
primitives. -/

namespace Sys2Proof.Machine

/-- A value into A and X, with `SetZN` (R270). -/
def putAX (v : Byte) (s : State) : State := setZN v { s with a := v, x := v }

/-- Write C with the bit shifted out, then go on (R274 to R277). -/
def withCarry (c : Bool) (f : State → State) (s : State) : State := f { s with p := setFlag s.p .c c }

/-- The handler of a *NOP: with an operand it reads it and discards the value, without one it does nothing
(R279, R280). -/
def discardRead (pl : Place) (s : State) : Except Fault State := do
  let r ← loadPlace pl s
  .ok r.2

/-- *LAX (R270): A and X from memory; Z, N. -/
def execLax (o : Operand) (s : State) : Host.Outcome State Fault Refusal :=
  perform (.lax o) (reading putAX) s

/-- *SAX (R271): `A & X` to memory, no flag. -/
def execSax (o : Operand) (s : State) : Host.Outcome State Fault Refusal :=
  perform (.sax o) (storing fun s => s.a &&& s.x) s

/-- *DCP (R272): decrement memory, then `Compare(A, v)`; C, Z, N. -/
def execDcp (o : Operand) (s : State) : Host.Outcome State Fault Refusal :=
  perform (.dcp o) (modifying (fun v _ => (decFn v, false)) fun r _ => compareWith (fun s => s.a) r) s

/-- *ISB (R273): increment memory, then `Add(~v)`; C, Z, V, N. -/
def execIsb (o : Operand) (s : State) : Host.Outcome State Fault Refusal :=
  perform (.isb o) (modifying (fun v _ => (incFn v, false)) fun r _ => addA (~~~r)) s

/-- *SLO (R274): shift memory left, then OR into A; C from the shift, Z and N from A. -/
def execSlo (o : Operand) (s : State) : Host.Outcome State Fault Refusal :=
  perform (.slo o) (modifying aslFn fun r c => withCarry c fun s => putA (s.a ||| r) s) s

/-- *RLA (R275): rotate memory left, then AND into A; C from the shift, Z and N from A. -/
def execRla (o : Operand) (s : State) : Host.Outcome State Fault Refusal :=
  perform (.rla o) (modifying rolFn fun r c => withCarry c fun s => putA (s.a &&& r) s) s

/-- *SRE (R276): shift memory right, then EOR into A; C from the shift, Z and N from A. -/
def execSre (o : Operand) (s : State) : Host.Outcome State Fault Refusal :=
  perform (.sre o) (modifying lsrFn fun r c => withCarry c fun s => putA (s.a ^^^ r) s) s

/-- *RRA (R277): rotate memory right, then `Add(r)` with the bit shifted out as carry in; C, Z, V, N. -/
def execRra (o : Operand) (s : State) : Host.Outcome State Fault Refusal :=
  perform (.rra o) (modifying rorFn fun r c => withCarry c (addA r)) s

/-- *SBC immediate (R278): exactly SBC. -/
def execUsbc (v : Byte) (s : State) : Host.Outcome State Fault Refusal :=
  perform (.usbc v) (reading fun m => addA (~~~m)) s

/-- *NOP (R279, R280). -/
def execUnop (op : Byte) (o : Operand) (s : State) : Host.Outcome State Fault Refusal :=
  perform (.unop op o) discardRead s

/-- UNSUPPORTED (R281): the step raises `UnsupportedOpcodeError(op)` after the fetch: `run` becomes Failed with it, and
nothing else happens (no operand read, no tick, no flag change; PC stays at the opcode's address plus 1). A code that is
none of the 25 is no instruction (log 7). -/
def execUnsupported (op : Byte) (s : State) : Host.Outcome State Fault Refusal :=
  match (Instr.unsupported op).opcode with
  | some code => .next { s with run := .failed (.unsupportedOpcode code) }
  | none => .refused .noSuchForm

end Sys2Proof.Machine
end

