-- ==== Sys2Proof/Machine/Fetch.lean ====
section
/-! DEFINITION. Step 3, fetch and decode (spec 40_step_and_addressing R143, R171), what a machine that is not running
does, and placing an instruction where the next fetch finds it. -/

namespace Sys2Proof.Machine

/-- The byte a bus read at PC would give, and 0 where the read would raise. Nothing changes. -/
def byteAtPc (s : State) : Byte :=
  match memRead s s.pc with
  | .ok r => r.1
  | .error _ => 0

/-- The offset byte of a branch, looked ahead for without any effect (log 11): the byte the handler's own read will
give if the branch is taken, that is, after the taken branch's tick (40_step_and_addressing R172). -/
def offsetAhead (s : State) : Byte :=
  match busTick s 1 with
  | .ok s1 => byteAtPc s1
  | .error _ => byteAtPc s

/-- Step 3 (R143): read the opcode byte at PC and advance PC by 1, then read the operand bytes at PC and PC + 1 without
moving it (R144, R171). The branches read no operand byte here (R160), an unsupported opcode none at all (30_encoding
R127). -/
def fetch (s : State) : Except Fault (Instr × State) := do
  let op ← memRead s s.pc
  let s1 := { op.2 with pc := op.2.pc + 1 }
  match (decodeRow op.1).mode with
  | .imp | .acc => .ok (decodeBytes op.1 0 0, s1)
  | .rel => .ok (decodeBytes op.1 (offsetAhead s1) 0, s1)
  | .imm | .zp | .zpx | .zpy | .izx | .izy => do
    let b1 ← memRead s1 s1.pc
    .ok (decodeBytes op.1 b1.1 0, b1.2)
  | .abs | .abx | .aby | .ind => do
    let b1 ← memRead s1 s1.pc
    let b2 ← memRead b1.2 (b1.2.pc + 1)
    .ok (decodeBytes op.1 b1.1 b2.1, b2.2)

/-- A step of a machine that is not running (10_state R34). From Ready it is the host's `run` (60_exceptions R382,
R386), which sets Running and does nothing else (log 1); Halted and Failed have no step. -/
def idleStep (s : State) : Host.Outcome State Fault Refusal :=
  match s.run with
  | .ready => .next { s with run := .running }
  | .running => .next s
  | .halted => .fault .notRunning
  | .failed e => .fault e

/-- An address of RAM or PRG ROM: one a program's bytes can be put at. -/
def placeable (a : Word) : Bool :=
  match regionOf a with
  | .ram _ | .prg _ => true
  | _ => false

/-- Put a byte into RAM or into the cartridge's PRG bytes, as the host does before a run (70_reset_and_hazards R403,
20_memory R89). -/
def poke (a : Word) (v : Byte) (s : State) : State :=
  match regionOf a with
  | .ram k => { s with ram := Memory.write s.ram k v }
  | .prg n =>
    { s with cart := { s.cart with prg := { s.cart.prg with
        bytes := Memory.write s.cart.prg.bytes (s.cart.mapper.offset (n - 0x8000)) v } } }
  | _ => s

/-- Where a placed instruction goes: PC if three bytes from there on are RAM or PRG ROM, else address 0. -/
def placeAddr (s : State) : Word :=
  if placeable s.pc && placeable (s.pc + 1) && placeable (s.pc + 2) then s.pc else 0x0000

/-- The state whose next step fetches and runs the instruction of table word `w` (log 1): its bytes stand at PC, the
run is Running and no NMI is pending. -/
def placeWord (s : State) (nbits w : Nat) : State :=
  let v := w % 2 ^ nbits
  let a := placeAddr s
  let s1 := { s with pc := a, run := .running, ppu := { s.ppu with nmi := .inactive } }
  poke (a + 2) (BitVec.ofNat 8 (v / 65536)) (poke (a + 1) (BitVec.ofNat 8 (v / 256)) (poke a (BitVec.ofNat 8 v) s1))

end Sys2Proof.Machine
end

