-- ==== Sys2Proof/Machine/Trace.lean ====
section
/-! DEFINITION. What the per-step hook observes (spec 60_exceptions R381): the trace record, with the disassembly of
30_encoding R130 to R132. The text layout of a trace line is outside the spec (R381, D41). -/

namespace Sys2Proof.Machine

/-- An instruction's mnemonic, undocumented ones with a leading `*` (30_encoding R132). -/
def mnemonic : Instr → String
  | .lda _ => "LDA"
  | .ldx _ => "LDX"
  | .ldy _ => "LDY"
  | .sta _ => "STA"
  | .stx _ => "STX"
  | .sty _ => "STY"
  | .tax => "TAX"
  | .tay => "TAY"
  | .txa => "TXA"
  | .tya => "TYA"
  | .tsx => "TSX"
  | .txs => "TXS"
  | .adc _ => "ADC"
  | .sbc _ => "SBC"
  | .and _ => "AND"
  | .ora _ => "ORA"
  | .eor _ => "EOR"
  | .cmp _ => "CMP"
  | .cpx _ => "CPX"
  | .cpy _ => "CPY"
  | .bit _ => "BIT"
  | .inc _ => "INC"
  | .dec _ => "DEC"
  | .inx => "INX"
  | .iny => "INY"
  | .dex => "DEX"
  | .dey => "DEY"
  | .asl _ => "ASL"
  | .lsr _ => "LSR"
  | .rol _ => "ROL"
  | .ror _ => "ROR"
  | .jmp _ => "JMP"
  | .jsr _ => "JSR"
  | .rts => "RTS"
  | .rti => "RTI"
  | .bcc _ => "BCC"
  | .bcs _ => "BCS"
  | .beq _ => "BEQ"
  | .bne _ => "BNE"
  | .bmi _ => "BMI"
  | .bpl _ => "BPL"
  | .bvc _ => "BVC"
  | .bvs _ => "BVS"
  | .brk => "BRK"
  | .nop => "NOP"
  | .pha => "PHA"
  | .pla => "PLA"
  | .php => "PHP"
  | .plp => "PLP"
  | .clc => "CLC"
  | .sec => "SEC"
  | .cli => "CLI"
  | .sei => "SEI"
  | .cld => "CLD"
  | .sed => "SED"
  | .clv => "CLV"
  | .lax _ => "*LAX"
  | .sax _ => "*SAX"
  | .dcp _ => "*DCP"
  | .isb _ => "*ISB"
  | .slo _ => "*SLO"
  | .rla _ => "*RLA"
  | .sre _ => "*SRE"
  | .rra _ => "*RRA"
  | .usbc _ => "*SBC"
  | .unop _ _ => "*NOP"
  | .unsupported _ => "UNSUPPORTED"

/-- A hexadecimal digit. -/
def hexDigit (n : Nat) : Char := if n < 10 then Char.ofNat (48 + n) else Char.ofNat (55 + n)

/-- A byte as two hexadecimal digits. -/
def hex8 (v : Byte) : String := String.ofList [hexDigit (v.toNat / 16), hexDigit (v.toNat % 16)]

/-- A word as four hexadecimal digits. -/
def hex16 (w : Word) : String := hex8 (hiByte w) ++ hex8 (loByte w)

/-- The operand syntax of 30_encoding R125; a branch is written with its target (R131), `opAddr` being its own address. -/
def operandText (opAddr : Word) : Operand → String
  | .imp => ""
  | .acc => "A"
  | .imm v => "#$" ++ hex8 v
  | .zp z => "$" ++ hex8 z
  | .zpx z => "$" ++ hex8 z ++ ",X"
  | .zpy z => "$" ++ hex8 z ++ ",Y"
  | .abs a => "$" ++ hex16 a
  | .abx a => "$" ++ hex16 a ++ ",X"
  | .aby a => "$" ++ hex16 a ++ ",Y"
  | .ind a => "($" ++ hex16 a ++ ")"
  | .izx z => "($" ++ hex8 z ++ ",X)"
  | .izy z => "($" ++ hex8 z ++ "),Y"
  | .rel d => "$" ++ hex16 (opAddr + 2 + sext16 d)

/-- The disassembly of an instruction at an address (30_encoding R130). Unsupported opcodes have no syntax (R132). -/
def disassemble (opAddr : Word) (i : Instr) : String :=
  match i with
  | .unsupported _ => ""
  | _ => if operandText opAddr i.operand = "" then mnemonic i else mnemonic i ++ " " ++ operandText opAddr i.operand

/-- What the hook sees before an instruction (60_exceptions R381). -/
structure TraceRecord where
  pc : Word
  bytes : List Byte
  text : String
  a : Byte
  x : Byte
  y : Byte
  p : Byte
  sp : Byte
  cycles : Nat
  scanline : Nat
  cycle : Nat
  deriving DecidableEq, Repr

/-- The instruction bytes the hook peeks at: `Peek(PC)` to `Peek(PC + length - 1)`; `draws` are the bytes I/O addresses
give (20_memory R102). -/
def tracedBytes (s : State) (draws : Nat → Byte) : List Byte :=
  (List.range (decodeRow (peek s (draws 0) s.pc)).mode.length).map fun k => peek s (draws k) (s.pc + BitVec.ofNat 16 k)

/-- The per-step hook's observation (60_exceptions R381). -/
def traceRecord (s : State) (draws : Nat → Byte) : TraceRecord :=
  let bs := tracedBytes s draws
  { pc := s.pc
    bytes := bs
    text := disassemble s.pc (decodeBytes (bs.getD 0 0) (bs.getD 1 0) (bs.getD 2 0))
    a := s.a, x := s.x, y := s.y, p := s.p, sp := s.sp
    cycles := s.cycles, scanline := s.ppu.scanline, cycle := s.ppu.cycle }

end Sys2Proof.Machine
end

