-- ==== Sys2Proof/Machine/Loop.lean ====
section
/-! DEFINITION. One iteration of the CPU's run loop (spec 40_step_and_addressing R140 to R147): which kind of step it is,
the call of the per-step hook, and the step. -/

namespace Sys2Proof.Machine

/-- What the next iteration is (R140, R141). -/
inductive StepKind where
  /-- The run is not Running: no iteration (10_state R34). -/
  | idle
  /-- Step 1 takes the pending NMI, and that is the whole iteration. -/
  | nmi
  /-- Steps 2 to 7. -/
  | instruction
  deriving DecidableEq, Repr

/-- The kind of the next iteration: the poll of step 1 (R141). -/
def stepKind (s : State) : StepKind :=
  match s.run with
  | .running =>
    match s.ppu.nmi with
    | .active => .nmi
    | .inactive => .instruction
  | _ => .idle

/-- Steps 3 to 7: the instruction at PC is fetched (R143) and run (R144 to R147). -/
def instructionStep (s : State) : Host.Outcome State Fault Refusal :=
  match fetch s with
  | .ok r => exec r.1 r.2
  | .error e => .fault e

/-- One iteration: what the per-step hook observes, where it is called, and the step's outcome. A pending NMI is taken and
is the whole iteration, with no call of the hook (R141). Otherwise the hook is called on the state before the fetch (step 2,
R142; 60_exceptions R381), and the instruction runs. The hook observes and changes nothing, so the outcome does not depend
on it. `draws` are the bytes the hook's `Peek` gives at I/O addresses (20_memory R102, log 8). -/
def iteration (draws : Nat → Byte) (s : State) : Option TraceRecord × Host.Outcome State Fault Refusal :=
  match stepKind s with
  | .nmi => (none, outcome (nmiEntry (consumeNmi s)))
  | .instruction => (some (traceRecord s draws), instructionStep s)
  | .idle => (none, idleStep s)

/-- `HostStep()` in the next iteration: its observation, none where it is not called (60_exceptions R381,
70_reset_and_hazards R414). -/
def hostStep (draws : Nat → Byte) (s : State) : Option TraceRecord := (iteration draws s).1

end Sys2Proof.Machine
end

