-- ==== Sys2Proof/Machine/Step.lean ====
section
/-! DEFINITION. The step: one iteration of the run loop (spec 40_step_and_addressing R140). -/

namespace Sys2Proof.Machine

/-- One step (R140). What the hook observes in it is `hostStep`; the outcome is the same whatever bytes its `Peek` gives at
I/O addresses, here 0x00. A machine that is not running takes `idleStep` (log 1). -/
def step (s : State) : Host.Outcome State Fault Refusal := (iteration (fun _ => 0x00) s).2

/-- `s` with the instruction of table word `w` placed where the next step fetches it. -/
def State.withFetchWord (s : State) (nbits w : Nat) : State := placeWord s nbits w

end Sys2Proof.Machine
end

