-- ==== Sys2Proof/Machine/HostOps.lean ====
section
/-! DEFINITION. What the host does to the core (spec 60_exceptions R382, R386; 70_reset_and_hazards R400 to R403). -/

namespace Sys2Proof.Machine

/-- Power-on with a loaded cartridge: every storage holds `P_INIT_FILL` (70_reset_and_hazards R400). -/
def powerOn (cfg : Config) (cart : Cart) : State :=
  { a := 0x00, x := 0x00, y := 0x00, sp := 0xFD, p := 0x24, pc := 0x0000, run := .ready
    ram := Memory.filled (List.range 2048) cfg.initFill, apu := Memory.filled apuAddresses cfg.initFill, cycles := 0
    ppu := Ppu.powerOn cfg.initFill cart.mirroring
    cart := cart
    pad := { buttons := 0x00, strobe := false, index := 0 }
    cfg := cfg
    frameReplies := [] }

/-- `Reset()` (70_reset_and_hazards R401). -/
def resetCpu (s : State) : Except Fault State := do
  let r ← read16 { s with a := 0x00, x := 0x00, y := 0x00, sp := 0xFD, p := 0x24 } resetVector
  busTick { r.2 with pc := r.1 } r.2.cfg.resetCycles

/-- Why a session does not come to be. -/
inductive BootError where
  /-- The load failed (20_memory R89). -/
  | rom (e : RomFormatError)
  /-- The reset's tick raised. -/
  | fault (e : Fault)
  deriving DecidableEq, Repr

/-- `P_ENTRY_PC`, where the host sets one (70_reset_and_hazards R403). -/
def enterAt (s : State) : State :=
  match s.cfg.entryPc with
  | some w => { s with pc := w }
  | none => s

/-- A session before `run`: load, power-on, reset, entry override (20_memory R89, 70_reset_and_hazards R400 to R403). -/
def boot (cfg : Config) (img : List Byte) : Except BootError State :=
  match Cart.load img with
  | .error e => .error (.rom e)
  | .ok cart =>
    match resetCpu (powerOn cfg cart) with
    | .error e => .error (.fault e)
    | .ok s => .ok (enterAt s)

/-- What the host may do between reset and `run`, and `run` itself (60_exceptions R382, 70_reset_and_hazards R403). -/
inductive HostAction where
  | setPc (w : Word)
  | setA (v : Byte)
  | setX (v : Byte)
  | setY (v : Byte)
  | setSp (v : Byte)
  | setP (v : Byte)
  /-- Write the RAM byte at an offset of 0..2047. -/
  | writeRam (k : BitVec 11) (v : Byte)
  | setButtons (v : Byte)
  | run
  deriving DecidableEq, Repr

/-- A host action, with neither tick nor side effect. After `run` the host writes nothing this way: none (60_exceptions
R382). -/
def hostAct (act : HostAction) (s : State) : Option State :=
  if s.run = .ready then
    match act with
    | .setPc w => some { s with pc := w }
    | .setA v => some { s with a := v }
    | .setX v => some { s with x := v }
    | .setY v => some { s with y := v }
    | .setSp v => some { s with sp := v }
    | .setP v => some { s with p := v }
    | .writeRam k v => some { s with ram := Memory.write s.ram k.toNat v }
    | .setButtons v => some { s with pad := { s.pad with buttons := v } }
    | .run => some { s with run := .running }
  else none

/-- A fault that is a fatal error of 60_exceptions R370: it ends the run in `Failed`. The others have no run state after
them: the model faults are stuck (R389), and `notRunning` is no step at all. -/
def Fault.isFatal : Fault → Bool
  | .memoryAccess _ _ | .unsupportedOpcode _ | .hostCallback _ => true
  | .fourScreenUnsupported | .chrOutOfRange _ | .notRunning => false

/-- Halted and Failed are final and never left (10_state R34). -/
def RunState.isFinal : RunState → Bool
  | .ready | .running => false
  | .halted | .failed _ => true

/-- The run state a step leaves (10_state R34, 40_step_and_addressing R140): a fatal error ends in `Failed`, a final state
is never left. None where the step is stuck in a model fault (60_exceptions R389). -/
def runAfter (s : State) : Option RunState :=
  if s.run.isFinal then some s.run
  else
    match step s with
    | .next t => some t.run
    | .fault e => if e.isFatal then some (.failed e) else none
    | .refused _ => none

/-- What the run loop returns to the host, or where it is stuck (60_exceptions R386). -/
inductive RunOutcome where
  /-- BRK was executed: success. -/
  | halted
  /-- A fatal error: the failure of the run. -/
  | failed (e : Fault)
  /-- A model fault (R389): the run is stuck, and no outcome of the source. -/
  | modelFault (e : Fault)
  deriving DecidableEq, Repr

/-- The outcome a fault ends the run with. -/
def Fault.outcome (e : Fault) : RunOutcome := if e.isFatal then .failed e else .modelFault e

/-- The run's outcome within `k` steps (60_exceptions R386): none while it still goes on. -/
def runOutcome : Nat → State → Option RunOutcome
  | k, s =>
    match s.run, k with
    | .halted, _ => some .halted
    | .failed e, _ => some e.outcome
    | _, 0 => none
    | _, k + 1 =>
      match step s with
      | .next t => runOutcome k t
      | .fault e => some e.outcome
      | .refused _ => none

/-- What the per-step hook observes in a run's next `k` steps, one record for each instruction step, none for an NMI entry
(60_exceptions R381, 70_reset_and_hazards R414). `draws j` are the bytes the hook's `Peek` gives at I/O addresses
in the j-th of these steps. -/
def runTrace (draws : Nat → Nat → Byte) : Nat → State → List TraceRecord
  | 0, _ => []
  | k + 1, s =>
    (hostStep (draws 0) s).toList ++
      match step s with
      | .next t => runTrace (fun j => draws (j + 1)) k t
      | _ => []

end Sys2Proof.Machine
end

