-- ==== Sys2Proof/Machine/Render.lean ====
section
/-! DEFINITION. The renderer (spec 50_ppu R326 to R334): a pure observation of the PPU and the CHR bytes. It changes no
state; the host may call it from the frame callback (60_exceptions R379). -/

namespace Sys2Proof.Machine

/-- A frame: 256 x 240 pixels, row-major (50_ppu R326). -/
abbrev Frame := List Rgb

/-- A pixel drawn at a position. -/
structure Draw where
  x : Nat
  y : Nat
  rgb : Rgb
  deriving DecidableEq, Repr

/-- `Sys(c)` (50_ppu R327). -/
def sysColour (c : Byte) : Rgb := Config.systemPalette (c.setWidth 6)

/-- A palette entry's colour. -/
def paletteColour (u : Ppu) (k : Nat) : Rgb := sysColour (Memory.read u.palette k)

/-- A CHR byte, or the fault of an index beyond the CHR bytes (50_ppu R328). -/
def chrByte (cart : Cart) (k : Nat) : Except Fault Byte :=
  if k < cart.chr.size then .ok (Memory.read cart.chr.bytes k) else .error (.chrOutOfRange (BitVec.ofNat 16 k))

/-- The 2-bit colour index of column x, row y of tile t in pattern table b (50_ppu R328). -/
def tilePixel (cart : Cart) (b t x y : Nat) : Except Fault Nat := do
  let lo ← chrByte cart (b + 16 * t + y)
  let hi ← chrByte cart (b + 16 * t + y + 8)
  .ok (2 * (bitOf hi (7 - x)).toNat + (bitOf lo (7 - x)).toNat)

/-- The pattern table a control bit selects (50_ppu R302). -/
def patternBase (u : Ppu) (bit : Nat) : Nat := if bitOf u.ctrl bit then 0x1000 else 0

/-- The palette selector of the tile at column c, row r of the nametable bank (50_ppu R329). -/
def attrPalette (u : Ppu) (bank c r : Nat) : Nat :=
  let attr := (Memory.read u.vram (bank * 0x400 + 960 + (r / 4) * 8 + c / 4)).toNat
  let quadrant := 2 * ((r % 4) / 2) + (c % 4) / 2
  (attr / 4 ^ quadrant) % 4

/-- The colour of pixel (px, py) of a nametable bank's picture (50_ppu R328, R329). -/
def backgroundColour (u : Ppu) (cart : Cart) (bank px py : Nat) : Except Fault Rgb := do
  let tile := (Memory.read u.vram (bank * 0x400 + (py / 8) * 32 + px / 8)).toNat
  let k ← tilePixel cart (patternBase u 4) tile (px % 8) (py % 8)
  .ok (paletteColour u (if k = 0 then 0 else 4 * attrPalette u bank (px / 8) (py / 8) + k))

/-- All positions of a frame, row by row. -/
def framePositions : List (Nat × Nat) :=
  (List.range 240).flatMap fun y => (List.range 256).map fun x => (x, y)

/-- The VRAM bank of the main nametable; the second is the other one (50_ppu R330). -/
def mainBank (u : Ppu) : Nat :=
  match u.mirroring with
  | .vertical => (bitOf u.ctrl 0).toNat
  | .horizontal | .fourScreen => (bitOf u.ctrl 1).toNat

/-- The pixels of the second nametable that show, with where they go (50_ppu R330). -/
def secondPosition (sx sy : Nat) (q : Nat × Nat) : Option (Nat × Nat) :=
  if sx > 0 then (if q.1 < sx then some (q.1 + 256 - sx, q.2) else none)
  else if sy > 0 then (if q.2 < sy then some (q.1, q.2 + 240 - sy) else none)
  else none

/-- The pixels of the main nametable that show, with where they go (50_ppu R330). -/
def mainPosition (sx sy : Nat) (q : Nat × Nat) : Option (Nat × Nat) :=
  if sx ≤ q.1 ∧ sy ≤ q.2 then some (q.1 - sx, q.2 - sy) else none

/-- The draws of one nametable bank under a placement. -/
def bankDraws (u : Ppu) (cart : Cart) (bank : Nat) (place : Nat × Nat → Option (Nat × Nat)) :
    List (Nat × Nat) → Except Fault (List Draw)
  | [] => .ok []
  | q :: t =>
    match place q with
    | none => bankDraws u cart bank place t
    | some pos => do
      let c ← backgroundColour u cart bank q.1 q.2
      let rest ← bankDraws u cart bank place t
      .ok ({ x := pos.1, y := pos.2, rgb := c } :: rest)

/-- The background's draws (50_ppu R330). -/
def backgroundDraws (u : Ppu) (cart : Cart) : Except Fault (List Draw) := do
  let sx := u.scrollX.toNat
  let sy := u.scrollY.toNat
  let main ← bankDraws u cart (mainBank u) (mainPosition sx sy) framePositions
  let second ← bankDraws u cart (1 - mainBank u) (secondPosition sx sy) framePositions
  .ok (main ++ second)

/-- The 64 in-tile positions, row by row. -/
def tilePositions : List (Nat × Nat) :=
  (List.range 8).flatMap fun y => (List.range 8).map fun x => (x, y)

/-- The draws of sprite i: colour index 0 is transparent (50_ppu R331). -/
def spriteDraws (u : Ppu) (cart : Cart) (i : Nat) : List (Nat × Nat) → Except Fault (List Draw)
  | [] => .ok []
  | q :: t => do
    let y := (Memory.read u.oam (4 * i)).toNat
    let tile := (Memory.read u.oam (4 * i + 1)).toNat
    let attr := Memory.read u.oam (4 * i + 2)
    let x := (Memory.read u.oam (4 * i + 3)).toNat
    let k ← tilePixel cart (patternBase u 3) tile q.1 q.2
    let rest ← spriteDraws u cart i t
    if k = 0 then .ok rest
    else .ok ({ x := x + (if bitOf attr 6 then 7 - q.1 else q.1)
                y := y + (if bitOf attr 7 then 7 - q.2 else q.2)
                rgb := paletteColour u (0x10 + 4 * (attr.toNat % 4) + k) } :: rest)

/-- The draws of the sprites below n, from the highest index down, so that sprite 0 is drawn last (50_ppu R331). -/
def spritesDraws (u : Ppu) (cart : Cart) : Nat → Except Fault (List Draw)
  | 0 => .ok []
  | n + 1 => do
    let d ← spriteDraws u cart n tilePositions
    let rest ← spritesDraws u cart n
    .ok (d ++ rest)

/-- The last draw at a position, or the colour below it. -/
def pixelAt (q : Nat × Nat) : List Draw → Rgb → Rgb
  | [], c => c
  | d :: t, c => pixelAt q t (if d.x = q.1 ∧ d.y = q.2 then d.rgb else c)

/-- `Render(ppu, cart)` (50_ppu R326, R332): backdrop, background if `mask[3]`, sprites if `mask[4]`. Under four-screen
mirroring the render is the fault (R330). A draw outside the frame meets no position. -/
def render (u : Ppu) (cart : Cart) : Except Fault Frame :=
  if u.mirroring = .fourScreen then .error .fourScreenUnsupported
  else do
    let bg ← if bitOf u.mask 3 then backgroundDraws u cart else .ok []
    let sp ← if bitOf u.mask 4 then spritesDraws u cart 64 else .ok []
    .ok (framePositions.map fun q => pixelAt q (bg ++ sp) (paletteColour u 0))

end Sys2Proof.Machine
end

