-- ==== Sys2Proof/Safety.lean ====
section
/-! DEFINITION. The terms claims use: what a well-behaved host is, what ticks leave, what an operand access
gives, how an instruction ends, and the invariants every step keeps. -/

namespace Sys2Proof.Machine

/-- A reply is a success (60_exceptions R379). -/
def FrameReply.isSuccess : FrameReply → Bool
  | .success _ => true
  | .failure _ => false

/-- No coming frame callback returns failure (60_exceptions R379, R380). -/
abbrev HostSucceeds (s : State) : Prop := s.frameReplies.all FrameReply.isSuccess = true

/-- `t` is exactly what `BusTick(n)` leaves of `s` (20_memory R100): n more CPU cycles, 3n PPU cycles, and, if and only if
the interrupt signal went from Inactive to Active, what the next frame reply does. `BusTickEffect` says it field by field. -/
def Ticked (n : Nat) (s t : State) : Prop := busTick s n = .ok t

/-- Bus ticks of these lengths, one after the other. -/
def busTicks : List Nat → State → Except Fault State
  | [], s => .ok s
  | n :: ns, s => do
    let s1 ← busTick s n
    busTicks ns s1

/-- The buttons after frame callbacks with these replies: what the last of them to write the buttons wrote (10_state R41,
60_exceptions R379). -/
def buttonsAfter : List FrameReply → Byte → Byte
  | [], b => b
  | .success (some w) :: t, _ => buttonsAfter t w
  | .success none :: t, b | .failure _ :: t, b => buttonsAfter t b

/-- PC at the end of a step whose handler left it at `w`: past the operand bytes if its value is still the one at the
dispatch (40_step_and_addressing R147). -/
def pcAfter (before : Word) (length : Nat) (w : Word) : Word :=
  if w = before then before + BitVec.ofNat 16 (length - 1) else w

/-- The base cycles of an opcode (40_step_and_addressing R146). -/
def baseCycles (s : State) (op : Byte) : Nat := (cycleCost s.cfg op).base

/-- A branch's flag, the value that takes it, and its offset (44_control_flow R245 to R252). -/
def branchOf : Instr → Option (Flag × Bool × Byte)
  | .bcc d => some (.c, false, d)
  | .bcs d => some (.c, true, d)
  | .beq d => some (.z, true, d)
  | .bne d => some (.z, false, d)
  | .bmi d => some (.n, true, d)
  | .bpl d => some (.n, false, d)
  | .bvc d => some (.v, false, d)
  | .bvs d => some (.v, true, d)
  | _ => none

/-- The operand's place and the state in which the handler finds it: the address computation and the page-cross charge
of step 4 (40_step_and_addressing R144). -/
def operandPlace (op : Byte) (o : Operand) (s : State) : Except Fault (Place × State) := do
  let r ← address o s
  let s1 ← pageCrossTick op r.2.1 r.2.2
  .ok (r.1, s1)

/-- The operand byte M and the state after its read (00_scope R10). -/
def operandRead (op : Byte) (o : Operand) (s : State) : Except Fault (Byte × State) := do
  let r ← operandPlace op o s
  loadPlace r.1 r.2

/-- The word of a zero-page pointer, read in page 0 (20_memory R73). -/
def zpWord (s : State) (z : Byte) : Word :=
  word16 (Memory.read s.ram (z + 1).toNat) (Memory.read s.ram z.toNat)

/-- The effective address of the memory modes but Indirect, computed from the registers and the zero page
(40_step_and_addressing R151 to R159). -/
def effectiveAddr (o : Operand) (s : State) : Option Word :=
  match o with
  | .zp z => some (zext16 z)
  | .zpx z => some (zext16 (z + s.x))
  | .zpy z => some (zext16 (z + s.y))
  | .abs a => some a
  | .abx a => some (a + zext16 s.x)
  | .aby a => some (a + zext16 s.y)
  | .izx z => some (zpWord s (z + s.x))
  | .izy z => some (zpWord s z + zext16 s.y)
  | .imp | .acc | .imm _ | .ind _ | .rel _ => none

/-- The base address an index is added to, in the modes that can cross a page (40_step_and_addressing R155, R156,
R159). -/
def indexBase (o : Operand) (s : State) : Option Word :=
  match o with
  | .abx a => some a
  | .aby a => some a
  | .izy z => some (zpWord s z)
  | _ => none

/-- The byte at an address whose read has neither side effect nor error: RAM, APU storage, the unmapped range, PRG ROM
(20_memory R81); none at the ports, 0x4014 and 0x4016. -/
def plainByte (s : State) (a : Word) : Option Byte :=
  match regionOf a with
  | .ram k => some (Memory.read s.ram k)
  | .apu n => some (apuRead s n)
  | .unmapped => some 0x00
  | .prg n => some (prgByte s.cart n)
  | .port | .oamDma | .joypad => none

/-- Every CPU-visible byte whose read is plain, but for those at one place, reads the same after as before. -/
def MemoryUnchangedBut (place : Option Region) (s t : State) : Prop :=
  ∀ b : Word, some (regionOf b) ≠ place → plainByte t b = plainByte s b

/-- Where an instruction of the store and read-modify-write families stores: the effective address in a memory mode
(40_step_and_addressing R166). -/
def storeTarget (i : Instr) (s : State) : Option Word :=
  match i with
  | .sta o | .stx o | .sty o | .sax o | .inc o | .dec o | .asl o | .lsr o | .rol o | .ror o
  | .dcp o | .isb o | .slo o | .rla o | .sre o | .rra o => effectiveAddr o s
  | _ => none

/-- The instructions that write memory through the stack or an operand. -/
def storesSomething : Instr → Bool
  | .sta _ | .stx _ | .sty _ | .sax _ | .inc _ | .dec _ | .dcp _ | .isb _ | .slo _ | .rla _ | .sre _ | .rra _
  | .pha | .php | .jsr _ => true
  | .asl o | .lsr o | .rol o | .ror o => o != .acc
  | _ => false

/-- The flags not in a list are unchanged. -/
def OnlyFlags (fs : List Flag) (p q : Byte) : Prop := ∀ f, f ∉ fs → getFlag q f = getFlag p f

/-- `i` answers from `s`, its handler having left `s'`: the base cycles of its row are ticked and PC is past its operand
bytes unless the handler moved it (40_step_and_addressing R146, R147). -/
def Completes (i : Instr) (s s' : State) : Prop :=
  ∃ op t, i.opcode = some op ∧ exec i s = .next t ∧
    Ticked (baseCycles s op) { s' with pc := pcAfter s.pc i.operand.mode.length s'.pc } t

/-- How `i` ends from `s`, its handler having left `s'`: where the host succeeds it completes; and, whatever the host
does, it answers exactly what the tick of its base cycles answers, HostCallbackError among it (40_step_and_addressing R146,
60_exceptions R380). -/
def Ends (i : Instr) (s s' : State) : Prop :=
  (HostSucceeds s → Completes i s s') ∧
  ∀ op, i.opcode = some op →
    exec i s = outcome
      (busTick { s' with pc := pcAfter s.pc i.operand.mode.length s'.pc } (baseCycles s op))

/-- What an instruction that reads one operand does in every form of it: with the byte `v` read and `s'` the state after
the read it ends with `f v s'`; where the page cross or the read raises, it raises the same. -/
def ReadResult (i : Instr) (f : Byte → State → State) : Prop :=
  ∀ op s, i.opcode = some op →
    (∀ v s', operandRead op i.operand s = .ok (v, s') → Ends i s (f v s')) ∧
    (∀ e, operandRead op i.operand s = .error e → exec i s = .fault e)

/-- What a storing instruction does in every form: it writes `v s` at its effective address, or raises what its page
cross (where a parameter charges one) or its write raises. -/
def StoreResult (i : Instr) (v : State → Byte) : Prop :=
  ∀ op s, i.opcode = some op →
    (∀ a s1, operandPlace op i.operand s = .ok (.mem a, s1) →
      (∀ s2, memWrite s1 a (v s) = .ok s2 → Ends i s s2) ∧
      (∀ e, memWrite s1 a (v s) = .error e → exec i s = .fault e)) ∧
    (∀ e, operandPlace op i.operand s = .error e → exec i s = .fault e)

/-- What a read-modify-write instruction does in every form: one read, one write of `f`'s result at the same place, then
`g` with the result and the bit shifted out; it raises what its accesses raise (40_step_and_addressing R166). -/
def ModifyResult (i : Instr) (f : Byte → Bool → Byte × Bool) (g : Byte → Bool → State → State) : Prop :=
  ∀ op s, i.opcode = some op →
    (∀ pl s1, operandPlace op i.operand s = .ok (pl, s1) →
      (∀ v s2, loadPlace pl s1 = .ok (v, s2) →
        (∀ s3, storePlace pl (f v (getFlag s.p .c)).1 s2 = .ok s3 →
          Ends i s (g (f v (getFlag s.p .c)).1 (f v (getFlag s.p .c)).2 s3)) ∧
        (∀ e, storePlace pl (f v (getFlag s.p .c)).1 s2 = .error e → exec i s = .fault e)) ∧
      (∀ e, loadPlace pl s1 = .error e → exec i s = .fault e)) ∧
    (∀ e, operandPlace op i.operand s = .error e → exec i s = .fault e)

/-- The instructions that write A (10_state R20). -/
def writesA : Instr → Bool
  | .lda _ | .pla | .txa | .tya | .adc _ | .sbc _ | .and _ | .ora _ | .eor _ | .lax _ | .slo _ | .rla _ | .sre _
  | .rra _ | .isb _ | .usbc _ => true
  | .asl o | .lsr o | .rol o | .ror o => o == .acc
  | _ => false

/-- The instructions that write X (10_state R21). -/
def writesX : Instr → Bool
  | .ldx _ | .tax | .tsx | .inx | .dex | .lax _ => true
  | _ => false

/-- The instructions that write Y (10_state R22). -/
def writesY : Instr → Bool
  | .ldy _ | .tay | .iny | .dey => true
  | _ => false

/-- The instructions that write SP: TXS and every push and pull (10_state R24). -/
def writesSp : Instr → Bool
  | .txs | .pha | .pla | .php | .plp | .jsr _ | .rts | .rti => true
  | _ => false

/-- The flags an instruction's rule lists (files 41 to 46, "Flags:"). -/
def writtenFlags : Instr → List Flag
  | .lda _ | .ldx _ | .ldy _ | .tax | .tay | .txa | .tya | .tsx | .and _ | .ora _ | .eor _ | .inc _ | .dec _ | .inx
  | .iny | .dex | .dey | .pla | .lax _ => [.z, .n]
  | .adc _ | .sbc _ | .usbc _ | .isb _ | .rra _ => [.c, .z, .v, .n]
  | .cmp _ | .cpx _ | .cpy _ | .dcp _ | .asl _ | .lsr _ | .rol _ | .ror _ | .slo _ | .rla _ | .sre _ => [.c, .z, .n]
  | .bit _ => [.z, .v, .n]
  | .plp | .rti => [.c, .z, .i, .d, .b, .b2, .v, .n]
  | .clc | .sec => [.c]
  | .cli | .sei => [.i]
  | .cld | .sed => [.d]
  | .clv => [.v]
  | _ => []

/-- The rows that pay the page-cross cycle by default (40_step_and_addressing R162). -/
def chargesPageCross : Instr → Bool
  | .adc o | .and o | .cmp o | .eor o | .lda o | .ora o | .sbc o => [Mode.abx, .aby, .izy].contains o.mode
  | .ldx o => o.mode == .aby
  | .ldy o => o.mode == .abx
  | .lax o => [Mode.aby, .izy].contains o.mode
  | .unop _ o => o.mode == .abx
  | .bcc _ | .bcs _ | .beq _ | .bne _ | .bmi _ | .bpl _ | .bvc _ | .bvs _ => true
  | _ => false

/-- Whether the operand's indexed address is on another page than its base (40_step_and_addressing R161). -/
def crossesPage (o : Operand) (s : State) : Bool :=
  match indexBase o s, effectiveAddr o s with
  | some base, some a => cross base a
  | _, _ => false

/-- The two's-complement value of a byte fits a signed byte. -/
def fitsSigned (n : Int) : Bool := decide (-128 ≤ n) && decide (n ≤ 127)

/-- An APU storage address (10_state R35). -/
def apuAddress (n : Nat) : Bool :=
  decide (0x4000 ≤ n) && decide (n < 0x4018) && decide (n ≠ 0x4014) && decide (n ≠ 0x4016)

/-- Every storage has its canonical form and its size (10_state R35, R37). -/
structure MemoriesCanonical (s : State) : Prop where
  ram : Memory.wf s.ram = true ∧ Memory.below 2048 s.ram = true
  apu : Memory.wf s.apu = true ∧ s.apu.all (fun c => apuAddress c.1) = true
  vram : Memory.wf s.ppu.vram = true ∧ Memory.below 2048 s.ppu.vram = true
  palette : Memory.wf s.ppu.palette = true ∧ Memory.below 32 s.ppu.palette = true
  oam : Memory.wf s.ppu.oam = true ∧ Memory.below 256 s.ppu.oam = true

/-- The stored Break bits: B is 0 and B2 is 1 (10_state R30, R31). -/
def BreakBits (s : State) : Prop := getFlag s.p .b = false ∧ getFlag s.p .b2 = true

/-- The ranges the spec gives PPU and joypad state (10_state R36, R38, R41; 50_ppu R304). -/
structure DeviceRanges (s : State) : Prop where
  addr : s.ppu.addr.toNat ≤ 0x3FFF
  scanline : s.ppu.scanline ≤ 261
  cycle : s.ppu.cycle ≤ 340
  status : s.ppu.status &&& 0x3F = 0
  toggles : s.cfg.toggleMode = .shared → s.ppu.scrollToggle = s.ppu.addrToggle
  index : s.pad.index ≤ 8

/-- The PPU clock agrees with the CPU clock (70_reset_and_hazards R407). -/
def ClockAgrees (s : State) : Prop := 341 * s.ppu.scanline + s.ppu.cycle = (3 * s.cycles) % 89342

/-- The PPU's mirroring is the cartridge's (10_state R39, 20_memory R99). -/
def MirroringFixed (s : State) : Prop := s.ppu.mirroring = s.cart.mirroring

end Sys2Proof.Machine
end

