-- ==== Sys2Proof/Certificates/Slice0/Obligations.lean ====
section
/-! DEFINITION. The statements about the model, each from the numbered rules its docstring names. -/

open Sys2Proof Sys2Proof.Machine

/-! ### Encoding -/

/-- Decoding the bytes of a well-formed instruction gives it back, whatever follows it (30_encoding R120 to R126). -/
def Obligations.DecodeOfEncode : Prop :=
  ∀ (i : Instr) (rest : List Byte), i.wellFormed = true → decode (encode i ++ rest) = .ok (i, rest)

/-- What is decoded is a well-formed instruction whose encoding is the bytes taken: each byte sequence has one meaning
(30_encoding R126, R129). -/
def Obligations.EncodeOfDecode : Prop :=
  ∀ (bs rest : List Byte) (i : Instr), decode bs = .ok (i, rest) → i.wellFormed = true ∧ bs = encode i ++ rest

/-- The opcode byte alone fixes the length, which is 1, 2 or 3 (30_encoding R120): whatever operand bytes follow it, the
instruction takes the length of the byte's mode, its encoding has that many bytes, and three bytes always hold an
instruction. -/
def Obligations.EncodingLength : Prop :=
  ∀ op b1 b2 : Byte,
    (encode (decodeBytes op b1 b2)).length = (decodeRow op).mode.length ∧
    (decodeRow op).mode.length ∈ [1, 2, 3] ∧
    (encode (decodeBytes op b1 b2)).head? = some op ∧
    ∃ i, decode [op, b1, b2] = .ok (i, [op, b1, b2].drop (decodeRow op).mode.length)

/-- Some encodings, byte by byte from the tables of files 41 to 46: one of each family. -/
def Obligations.SampleWordsDecode : Prop :=
  decode [0xA9, 0x05] = .ok (.lda (.imm 0x05), []) ∧
  decode [0x8D, 0x00, 0x02] = .ok (.sta (.abs 0x0200), []) ∧
  decode [0xE1, 0x10] = .ok (.sbc (.izx 0x10), []) ∧
  decode [0xB9, 0xFF, 0x12] = .ok (.lda (.aby 0x12FF), []) ∧
  decode [0x0A] = .ok (.asl .acc, []) ∧
  decode [0x6C, 0xFF, 0x10] = .ok (.jmp (.ind 0x10FF), []) ∧
  decode [0xD0, 0xFC] = .ok (.bne 0xFC, []) ∧
  decode [0x28] = .ok (.plp, []) ∧
  decode [0xB7, 0x80] = .ok (.lax (.zpy 0x80), []) ∧
  decode [0xEB, 0x03] = .ok (.usbc 0x03, []) ∧
  decode [0x3C, 0x34, 0x12] = .ok (.unop 0x3C (.abx 0x1234), []) ∧
  decode [0x93] = .ok (.unsupported 0x93, [])

/-- UNSUPPORTED (30_encoding R127, 46_undocumented R281, 60_exceptions R388): the 25 codes. In a running machine with no
NMI pending, fetching one ends the run in Failed with `UnsupportedOpcodeError(op)`: PC is past the opcode, and nothing
but what the fetch itself does happens (no operand read, no tick, no flag change). -/
def Obligations.UnsupportedEndsRun : Prop :=
  (∀ op : Byte, op ∈ unsupportedCodes ↔
    op ∈ ([0x02, 0x12, 0x22, 0x32, 0x42, 0x52, 0x62, 0x72, 0x92, 0xB2, 0xD2, 0xF2, 0x0B, 0x2B, 0x4B, 0x6B, 0x8B, 0xAB,
      0xCB, 0x93, 0x9B, 0x9C, 0x9E, 0x9F, 0xBB] : List Byte)) ∧
  (∀ (op : Byte) (s : State), op ∈ unsupportedCodes →
    exec (.unsupported op) s = .next { s with run := .failed (.unsupportedOpcode op) }) ∧
  (∀ (op : Byte) (s s' : State), op ∈ unsupportedCodes → s.run = .running → s.ppu.nmi = .inactive →
    memRead s s.pc = .ok (op, s') →
    step s = .next { s' with pc := s.pc + 1, run := .failed (.unsupportedOpcode op) })

/-! ### The step -/

/-- A step runs the decoded instruction (40_step_and_addressing R140, R143, R144, R171). A running machine with no NMI
pending, the bytes of an instruction `i` standing at PC where reads are plain, steps as `exec i` with PC past the opcode
byte. Wherever PC points: a read of the opcode or of an operand byte that raises is the step's fault (60_exceptions R387),
and reads with side effects are made in order, once each. Only a branch's offset is decoded without a read of its own: it
is the byte the taken branch's read will give (the model's choice, log 11). -/
def Obligations.StepRunsDecoded : Prop :=
  ∀ s : State, s.run = .running → s.ppu.nmi = .inactive →
    (∀ (bs : List Byte) (i : Instr), decode bs = .ok (i, []) →
      (∀ k (h : k < bs.length), plainByte s (s.pc + BitVec.ofNat 16 k) = some bs[k]) →
      step s = exec i { s with pc := s.pc + 1 }) ∧
    (∀ e : Fault, memRead s s.pc = .error e → step s = .fault e) ∧
    (∀ (op : Byte) (s1 : State) (m : Mode), memRead s s.pc = .ok (op, s1) → m = (decodeRow op).mode →
      (m.length = 1 → step s = exec (decodeBytes op 0 0) { s1 with pc := s.pc + 1 }) ∧
      (m = .rel → ∃ d, step s = exec (decodeBytes op d 0) { s1 with pc := s.pc + 1 } ∧
        ∀ (s2 s3 : State) (v : Byte), busTick { s1 with pc := s.pc + 1 } 1 = .ok s2 →
          memRead s2 (s.pc + 1) = .ok (v, s3) → d = v) ∧
      (m ≠ .rel → 2 ≤ m.length →
        (∀ e : Fault, memRead s1 (s.pc + 1) = .error e → step s = .fault e) ∧
        (∀ (b1 : Byte) (s2 : State), memRead s1 (s.pc + 1) = .ok (b1, s2) →
          (m.length = 2 → step s = exec (decodeBytes op b1 0) { s2 with pc := s.pc + 1 }) ∧
          (m.length = 3 →
            (∀ e : Fault, memRead s2 (s.pc + 2) = .error e → step s = .fault e) ∧
            (∀ (b2 : Byte) (s3 : State), memRead s2 (s.pc + 2) = .ok (b2, s3) →
              step s = exec (decodeBytes op b1 b2) { s3 with pc := s.pc + 1 })))))

/-- Only Running has a step; Halted and Failed are final (10_state R34). From Ready the model's step is the host's `run`,
which sets Running and nothing else (the model's choice, log 1; 60_exceptions R382, R386). The per-step hook is called in
exactly the instruction steps, before the fetch and so on the state before it, and not in an NMI entry
(40_step_and_addressing R142, 60_exceptions R381, 70_reset_and_hazards R414): it observes PC, the registers, the clock and
the bytes `Peek` gives, with their disassembly, and has no effect on the step. `Peek` of a plain address is the byte there
(20_memory R102); what it gives elsewhere is free (log 8). -/
def Obligations.OnlyRunningSteps : Prop :=
  (∀ s : State, s.run = .halted → step s = .fault .notRunning) ∧
  (∀ (s : State) (e : Fault), s.run = .failed e → step s = .fault e) ∧
  (∀ s : State, s.run = .ready → step s = .next { s with run := .running }) ∧
  (∀ (draws : Nat → Byte) (s : State), s.run ≠ .running ∨ s.ppu.nmi = .active → hostStep draws s = none) ∧
  (∀ (draws : Nat → Byte) (s : State), s.run = .running → s.ppu.nmi = .inactive → ∃ r, hostStep draws s = some r ∧
    r.pc = s.pc ∧ r.a = s.a ∧ r.x = s.x ∧ r.y = s.y ∧ r.p = s.p ∧ r.sp = s.sp ∧ r.cycles = s.cycles ∧
    r.scanline = s.ppu.scanline ∧ r.cycle = s.ppu.cycle ∧
    r.bytes.length = (decodeRow (peek s (draws 0) s.pc)).mode.length ∧
    (∀ k (h : k < r.bytes.length), r.bytes[k] = peek s (draws k) (s.pc + BitVec.ofNat 16 k)) ∧
    ∃ i, decode r.bytes = .ok (i, []) ∧ r.text = disassemble s.pc i) ∧
  (∀ (draws : Nat → Byte) (s : State), (iteration draws s).2 = step s) ∧
  (∀ (s : State) (d v : Byte) (a : Word), plainByte s a = some v → peek s d a = v)

/-- The NMI entry (60_exceptions R371, R372): a running machine whose NMI signal is Active consumes it, pushes PC high
byte first, then P with B clear and B2 set, sets I, loads PC from 0xFFFA (low byte there), and charges `P_NMI_CYCLES`;
that is the whole step, whatever P.I was. Where the frame callback fails in that charge, the step is HostCallbackError. The
next line of a trace shows the handler's address, SP three lower and I set (70_reset_and_hazards R414). -/
def Obligations.StepTakesNmi : Prop :=
  ∀ s u : State, s.run = .running → s.ppu.nmi = .active →
    u = { s with
      ppu := { s.ppu with nmi := .inactive }
      ram := Memory.write (Memory.write (Memory.write s.ram
        (0x100 + s.sp.toNat) (hiByte s.pc))
        (0x100 + (s.sp - 1).toNat) (loByte s.pc))
        (0x100 + (s.sp - 2).toNat) ((s.p &&& 0xEF) ||| 0x20)
      sp := s.sp - 3
      p := s.p ||| 0x04
      pc := word16 (prgByte s.cart 0xFFFB) (prgByte s.cart 0xFFFA) } →
    step s = outcome (busTick u s.cfg.nmiCycles) ∧
    (HostSucceeds s → ∃ t, step s = .next t ∧ Ticked s.cfg.nmiCycles u t ∧
      ∀ draws : Nat → Byte, (traceRecord t draws).pc = u.pc ∧ (traceRecord t draws).sp = s.sp - 3 ∧
        getFlag (traceRecord t draws).p .i = true)

/-- An NMI handler that only returns resumes where the NMI was taken, with the registers, flags and SP of before
(60_exceptions R373). The premise on the stored Break bits is the invariant of `StepKeepsBreakBits`. -/
def Obligations.NmiReturnRestores : Prop :=
  ∀ s t : State, BreakBits s → HostSucceeds s → nmiEntry s = .ok t →
    ∃ u, exec .rti t = .next u ∧ u.pc = s.pc ∧ u.p = s.p ∧ u.sp = s.sp ∧ u.a = s.a ∧ u.x = s.x ∧ u.y = s.y

/-- Every step keeps every storage inside its size (10_state R35, R37) and in the canonical form in which the model holds a
storage: rising addresses, no cell equal to what an unlisted address reads as (the model's choice, log 3). -/
def Obligations.StepKeepsMemories : Prop :=
  ∀ s t : State, MemoriesCanonical s → step s = .next t → MemoriesCanonical t

/-- The stored B stays 0 and the stored B2 stays 1 (10_state R30, R31). -/
def Obligations.StepKeepsBreakBits : Prop :=
  ∀ s t : State, BreakBits s → step s = .next t → BreakBits t

/-- The ranges of the PPU's and the joypad's state hold at every step boundary (10_state R36, R38, R41; 50_ppu R304,
R310, R313). -/
def Obligations.StepKeepsDeviceRanges : Prop :=
  ∀ s t : State, DeviceRanges s → step s = .next t → DeviceRanges t

/-- The clock invariant: 341 * scanline + cycle = (3 * cycles) mod 89342 at every step boundary (70_reset_and_hazards
R407). -/
def Obligations.StepKeepsClock : Prop :=
  ∀ s t : State, DeviceRanges s → ClockAgrees s → step s = .next t → ClockAgrees t

/-- The cartridge and the parameters are constant, and the PPU's mirroring stays the cartridge's (20_memory R99; the
parameters standing in State is the model's choice, log 4). -/
def Obligations.StepKeepsCartridge : Prop :=
  ∀ s t : State, step s = .next t →
    t.cart = s.cart ∧ t.cfg = s.cfg ∧ (MirroringFixed s → MirroringFixed t)

/-- State.reset is the machine after power-on and reset (70_reset_and_hazards R402) with the blank cartridge and a host
that will succeed (the model's choices, logs 2 and 5), and it meets every invariant. -/
def Obligations.ResetMeetsInvariants : Prop :=
  resetCpu (powerOn defaultConfig blankCart) = .ok State.reset ∧
  MemoriesCanonical State.reset ∧ BreakBits State.reset ∧ DeviceRanges State.reset ∧ ClockAgrees State.reset ∧
    MirroringFixed State.reset ∧ HostSucceeds State.reset

/-- Power-on and reset (70_reset_and_hazards R400, R401): every register and every clock at its power-on value, every byte
of the five storages at `P_INIT_FILL`, by default 0x00, and what reset changes. For every cartridge; for every value of the
parameters and for the default ones. The model's choices here: an empty list of cells is a storage of 0x00 (log 3), the
parameters stand in the state (log 4), the host's replies are a list, empty at power-on (log 5); and A, X, Y and SP are the
spec's own decision D3, which its source does not give (log 16). -/
def Obligations.ResetState : Prop :=
  (∀ cart : Cart,
    powerOn defaultConfig cart =
      { a := 0x00, x := 0x00, y := 0x00, pc := 0x0000, sp := 0xFD, p := 0x24, run := .ready, ram := [], apu := [],
        cycles := 0,
        ppu := { ctrl := 0, mask := 0, status := 0, oamAddr := 0, scrollX := 0, scrollY := 0, dataBuf := 0, addr := 0,
                 scrollToggle := .first, addrToggle := .first, vram := [], palette := [], oam := [], scanline := 0,
                 cycle := 0, nmi := .inactive, mirroring := cart.mirroring },
        cart := cart, pad := { buttons := 0x00, strobe := false, index := 0 }, cfg := defaultConfig,
        frameReplies := [] } ∧
    resetCpu (powerOn defaultConfig cart) = .ok { powerOn defaultConfig cart with
      pc := word16 (prgByte cart 0xFFFD) (prgByte cart 0xFFFC)
      cycles := 7
      ppu := { (powerOn defaultConfig cart).ppu with cycle := 21 } }) ∧
  (∀ k : Nat, Memory.read [] k = 0x00) ∧
  (∀ (cfg : Config) (cart : Cart) (s : State), s = powerOn cfg cart →
    s = { powerOn defaultConfig cart with
      cfg := cfg
      ram := s.ram
      apu := s.apu
      ppu := { (powerOn defaultConfig cart).ppu with vram := s.ppu.vram, palette := s.ppu.palette, oam := s.ppu.oam } } ∧
    MemoriesCanonical s ∧
    (∀ k, k < 2048 → Memory.read s.ram k = cfg.initFill ∧ Memory.read s.ppu.vram k = cfg.initFill) ∧
    (∀ k, apuAddress k = true → Memory.read s.apu k = cfg.initFill) ∧
    (∀ k, k < 32 → Memory.read s.ppu.palette k = cfg.initFill) ∧
    (∀ k, k < 256 → Memory.read s.ppu.oam k = cfg.initFill) ∧
    resetCpu s = .ok { s with
      pc := word16 (prgByte cart 0xFFFD) (prgByte cart 0xFFFC)
      cycles := cfg.resetCycles
      ppu := ppuTick (3 * cfg.resetCycles) s.ppu })

/-- No step takes cycles back (40_step_and_addressing R170: the charges are the only changes of `bus.cycles`). -/
def Obligations.StepCyclesGrow : Prop :=
  ∀ s t : State, step s = .next t → s.cycles ≤ t.cycles

/-- The run goes on but for BRK, which halts it, and UNSUPPORTED, which fails it (44_control_flow R253, 46_undocumented
R281). -/
def Obligations.RunChanges : Prop :=
  ∀ (i : Instr) (s t : State), exec i s = .next t →
    t.run = s.run ∨ (i = .brk ∧ t.run = .halted) ∨
      (∃ op, i = .unsupported op ∧ t.run = .failed (.unsupportedOpcode op))

/-! ### The primitives -/

/-- `SetZN(v)` (40_step_and_addressing R163): Z from v = 0, N from bit 7, no other flag and nothing else. -/
def Obligations.SetZNFlags : Prop :=
  ∀ (v : Byte) (s : State),
    getFlag (setZN v s).p .z = decide (v = 0) ∧ getFlag (setZN v s).p .n = v.getLsbD 7 ∧
      OnlyFlags [.z, .n] s.p (setZN v s).p ∧ setZN v s = { s with p := (setZN v s).p }

/-- `Add(m)` (40_step_and_addressing R164) and its blindness to P.D (R169): the sum modulo 256 into A, C from bit 8, V
where both operands' signs differ from the result's, Z and N from the result; no other flag, nothing else, and the same
with P.D written to either value. -/
def Obligations.AddBinary : Prop :=
  (∀ (m : Byte) (s : State),
    (addA m s).a.toNat = (s.a.toNat + m.toNat + (getFlag s.p .c).toNat) % 256 ∧
    getFlag (addA m s).p .c = decide (256 ≤ s.a.toNat + m.toNat + (getFlag s.p .c).toNat) ∧
    getFlag (addA m s).p .v =
      ((s.a.getLsbD 7 != (addA m s).a.getLsbD 7) && (m.getLsbD 7 != (addA m s).a.getLsbD 7)) ∧
    getFlag (addA m s).p .z = decide ((addA m s).a = 0) ∧
    getFlag (addA m s).p .n = (addA m s).a.getLsbD 7 ∧
    OnlyFlags [.c, .z, .v, .n] s.p (addA m s).p ∧
    addA m s = { s with a := (addA m s).a, p := (addA m s).p }) ∧
  (∀ (m : Byte) (b : Bool) (s : State),
    (addA m { s with p := setFlag s.p .d b }).a = (addA m s).a ∧
    (addA m { s with p := setFlag s.p .d b }).p = setFlag (addA m s).p .d b)

/-- What `Add` computes as arithmetic (40_step_and_addressing R164, 42_arithmetic_logic R216): V tells that the signed
sum does not fit a signed byte; with the complemented operand the result is `A - M - (1 - C)` modulo 256, C tells that
there was no borrow, and V that the signed difference does not fit. -/
def Obligations.AddAsArithmetic : Prop :=
  ∀ (m : Byte) (s : State),
    getFlag (addA m s).p .v = !fitsSigned (s.a.toInt + m.toInt + (getFlag s.p .c).toNat) ∧
    (addA (~~~m) s).a.toNat = (256 + s.a.toNat - m.toNat - (1 - (getFlag s.p .c).toNat)) % 256 ∧
    getFlag (addA (~~~m) s).p .c = decide (m.toNat + (1 - (getFlag s.p .c).toNat) ≤ s.a.toNat) ∧
    getFlag (addA (~~~m) s).p .v = !fitsSigned (s.a.toInt - m.toInt - (1 - (getFlag s.p .c).toNat))

/-- `Compare(reg, m)` (40_step_and_addressing R165): C from the unsigned comparison, Z and N from the difference modulo
256; no other flag, no register. -/
def Obligations.CompareFlags : Prop :=
  ∀ (reg : State → Byte) (m : Byte) (s : State),
    getFlag (compareWith reg m s).p .c = decide (m.toNat ≤ (reg s).toNat) ∧
    getFlag (compareWith reg m s).p .z = decide (reg s = m) ∧
    getFlag (compareWith reg m s).p .n = decide (128 ≤ (256 + (reg s).toNat - m.toNat) % 256) ∧
    OnlyFlags [.c, .z, .n] s.p (compareWith reg m s).p ∧
    compareWith reg m s = { s with p := (compareWith reg m s).p }

/-- The shift and rotate functions (40_step_and_addressing R167) and the increment and decrement (R168), as numbers. -/
def Obligations.ShiftFunctions : Prop :=
  ∀ (v : Byte) (c : Bool),
    ((aslFn v c).1.toNat = v.toNat * 2 % 256 ∧ (aslFn v c).2 = decide (128 ≤ v.toNat)) ∧
    ((lsrFn v c).1.toNat = v.toNat / 2 ∧ (lsrFn v c).2 = decide (v.toNat % 2 = 1)) ∧
    ((rolFn v c).1.toNat = (v.toNat * 2 + c.toNat) % 256 ∧ (rolFn v c).2 = decide (128 ≤ v.toNat)) ∧
    ((rorFn v c).1.toNat = v.toNat / 2 + 128 * c.toNat ∧ (rorFn v c).2 = decide (v.toNat % 2 = 1)) ∧
    (incFn v).toNat = (v.toNat + 1) % 256 ∧ (decFn v).toNat = (v.toNat + 255) % 256

/-! ### Addressing -/

/-- The effective addresses of the memory modes but Indirect (40_step_and_addressing R151 to R156, R158, R159, R161):
the sums wrap in page 0 or modulo 2^16, pointers are read in page 0, and the page cross is that of the indexed sum;
nothing changes. Implied and Accumulator have no address and read nothing (R148, R149). The operand's own bytes have been
read by the fetch, so that Immediate gives that byte and Relative no place at all (the model's choice, log 11). -/
def Obligations.EffectiveAddresses : Prop :=
  (∀ (z : Byte) (s : State), address (.zp z) s = .ok (.mem (BitVec.ofNat 16 z.toNat), false, s)) ∧
  (∀ (z : Byte) (s : State), address (.zpx z) s = .ok (.mem (BitVec.ofNat 16 ((z.toNat + s.x.toNat) % 256)), false, s)) ∧
  (∀ (z : Byte) (s : State), address (.zpy z) s = .ok (.mem (BitVec.ofNat 16 ((z.toNat + s.y.toNat) % 256)), false, s)) ∧
  (∀ (a : Word) (s : State), address (.abs a) s = .ok (.mem a, false, s)) ∧
  (∀ (a : Word) (s : State), address (.abx a) s =
    .ok (.mem (BitVec.ofNat 16 (a.toNat + s.x.toNat)), decide (256 ≤ a.toNat % 256 + s.x.toNat), s)) ∧
  (∀ (a : Word) (s : State), address (.aby a) s =
    .ok (.mem (BitVec.ofNat 16 (a.toNat + s.y.toNat)), decide (256 ≤ a.toNat % 256 + s.y.toNat), s)) ∧
  (∀ (z : Byte) (s : State), address (.izx z) s =
    .ok (.mem (BitVec.ofNat 16 (256 * (Memory.read s.ram ((z.toNat + s.x.toNat + 1) % 256)).toNat +
      (Memory.read s.ram ((z.toNat + s.x.toNat) % 256)).toNat)), false, s)) ∧
  (∀ (z : Byte) (s : State), address (.izy z) s =
    .ok (.mem (BitVec.ofNat 16 (256 * (Memory.read s.ram ((z.toNat + 1) % 256)).toNat +
      (Memory.read s.ram z.toNat).toNat + s.y.toNat)),
      decide (256 ≤ (Memory.read s.ram z.toNat).toNat + s.y.toNat), s)) ∧
  (∀ (s : State) (v d : Byte), address .imp s = .ok (.none, false, s) ∧ address .acc s = .ok (.acc, false, s) ∧
    address (.imm v) s = .ok (.value v, false, s) ∧ address (.rel d) s = .ok (.none, false, s))

/-- Reading an operand (40_step_and_addressing R144, R166): in every memory mode but Indirect, an operand at a plain
address is the byte there, and the only other effect is one tick where the mode crossed a page and the row is marked, which
may raise HostCallbackError; the accumulator is read without any effect. So is the immediate byte, because the fetch has
read it (the model's choice, log 11). -/
def Obligations.PlainOperandRead : Prop :=
  (∀ (op : Byte) (o : Operand) (s : State) (a : Word) (v : Byte), effectiveAddr o s = some a → plainByte s a = some v →
    operandRead op o s =
      (if crossesPage o s && (cycleCost s.cfg op).pageCross then (busTick s 1).map fun t => (v, t) else .ok (v, s)) ∧
    (HostSucceeds s → ∃ s', operandRead op o s = .ok (v, s'))) ∧
  (∀ (op : Byte) (s : State), operandRead op .acc s = .ok (s.a, s)) ∧
  (∀ (op v : Byte) (s : State), operandRead op (.imm v) s = .ok (v, s))

/-- The rows that pay the page-cross cycle by default (40_step_and_addressing R162). -/
def Obligations.PageCrossRows : Prop :=
  ∀ (i : Instr) (op : Byte), i.opcode = some op →
    (cycleCost defaultConfig op).pageCross = chargesPageCross i

/-! ### What the instructions do -/

/-- LDA, LDX, LDY, *LAX (41_load_store_transfer R200 to R202, 46_undocumented R270). -/
def Obligations.LoadResults : Prop :=
  (∀ o, ReadResult (.lda o) fun v s => { s with a := v, p := flagsZN s.p v }) ∧
  (∀ o, ReadResult (.ldx o) fun v s => { s with x := v, p := flagsZN s.p v }) ∧
  (∀ o, ReadResult (.ldy o) fun v s => { s with y := v, p := flagsZN s.p v }) ∧
  (∀ o, ReadResult (.lax o) fun v s => { s with a := v, x := v, p := flagsZN s.p v })

/-- STA, STX, STY, *SAX (41_load_store_transfer R203 to R205, 46_undocumented R271). -/
def Obligations.StoreResults : Prop :=
  (∀ o, StoreResult (.sta o) fun s => s.a) ∧
  (∀ o, StoreResult (.stx o) fun s => s.x) ∧
  (∀ o, StoreResult (.sty o) fun s => s.y) ∧
  (∀ o, StoreResult (.sax o) fun s => s.a &&& s.x)

/-- TAX, TAY, TXA, TYA, TSX, TXS (41_load_store_transfer R206 to R211). -/
def Obligations.TransferResults : Prop :=
  ∀ s : State,
    Ends .tax s { s with x := s.a, p := flagsZN s.p s.a } ∧
    Ends .tay s { s with y := s.a, p := flagsZN s.p s.a } ∧
    Ends .txa s { s with a := s.x, p := flagsZN s.p s.x } ∧
    Ends .tya s { s with a := s.y, p := flagsZN s.p s.y } ∧
    Ends .tsx s { s with x := s.sp, p := flagsZN s.p s.sp } ∧
    Ends .txs s { s with sp := s.x }

/-- ADC, SBC, *SBC (42_arithmetic_logic R215, R216; 46_undocumented R278): `Add(M)` and `Add(~M)`. -/
def Obligations.AddResults : Prop :=
  (∀ o, ReadResult (.adc o) fun m s => addA m s) ∧
  (∀ o, ReadResult (.sbc o) fun m s => addA (~~~m) s) ∧
  (∀ v, ReadResult (.usbc v) fun m s => addA (~~~m) s)

/-- AND, ORA, EOR (42_arithmetic_logic R217 to R219). -/
def Obligations.LogicResults : Prop :=
  (∀ o, ReadResult (.and o) fun m s => { s with a := s.a &&& m, p := flagsZN s.p (s.a &&& m) }) ∧
  (∀ o, ReadResult (.ora o) fun m s => { s with a := s.a ||| m, p := flagsZN s.p (s.a ||| m) }) ∧
  (∀ o, ReadResult (.eor o) fun m s => { s with a := s.a ^^^ m, p := flagsZN s.p (s.a ^^^ m) })

/-- CMP, CPX, CPY, BIT (42_arithmetic_logic R220 to R223). -/
def Obligations.CompareResults : Prop :=
  (∀ o, ReadResult (.cmp o) fun m s => compareWith (fun s => s.a) m s) ∧
  (∀ o, ReadResult (.cpx o) fun m s => compareWith (fun s => s.x) m s) ∧
  (∀ o, ReadResult (.cpy o) fun m s => compareWith (fun s => s.y) m s) ∧
  (∀ o, ReadResult (.bit o) fun m s => { s with
    p := setFlag (setFlag (setFlag s.p .z (decide (s.a &&& m = 0))) .v (m.getLsbD 6)) .n (m.getLsbD 7) })

/-- INC, DEC (42_arithmetic_logic R224, R225). -/
def Obligations.IncDecResults : Prop :=
  (∀ o, ModifyResult (.inc o) (fun v _ => (v + 1, false)) fun r _ s => { s with p := flagsZN s.p r }) ∧
  (∀ o, ModifyResult (.dec o) (fun v _ => (v - 1, false)) fun r _ s => { s with p := flagsZN s.p r })

/-- INX, INY, DEX, DEY (42_arithmetic_logic R226 to R229). -/
def Obligations.IndexStepResults : Prop :=
  ∀ s : State,
    Ends .inx s { s with x := s.x + 1, p := flagsZN s.p (s.x + 1) } ∧
    Ends .iny s { s with y := s.y + 1, p := flagsZN s.p (s.y + 1) } ∧
    Ends .dex s { s with x := s.x - 1, p := flagsZN s.p (s.x - 1) } ∧
    Ends .dey s { s with y := s.y - 1, p := flagsZN s.p (s.y - 1) }

/-- ASL, LSR, ROL, ROR, on A or on memory (43_shift_rotate R232 to R235). -/
def Obligations.ShiftResults : Prop :=
  (∀ o, ModifyResult (.asl o) aslFn fun r c s => { s with p := flagsZN (setFlag s.p .c c) r }) ∧
  (∀ o, ModifyResult (.lsr o) lsrFn fun r c s => { s with p := flagsZN (setFlag s.p .c c) r }) ∧
  (∀ o, ModifyResult (.rol o) rolFn fun r c s => { s with p := flagsZN (setFlag s.p .c c) r }) ∧
  (∀ o, ModifyResult (.ror o) rorFn fun r c s => { s with p := flagsZN (setFlag s.p .c c) r })

/-- *DCP, *ISB, *SLO, *RLA, *SRE, *RRA (46_undocumented R272 to R277). -/
def Obligations.CompositeResults : Prop :=
  (∀ o, ModifyResult (.dcp o) (fun v _ => (v - 1, false)) fun r _ s => compareWith (fun s => s.a) r s) ∧
  (∀ o, ModifyResult (.isb o) (fun v _ => (v + 1, false)) fun r _ s => addA (~~~r) s) ∧
  (∀ o, ModifyResult (.slo o) aslFn fun r c s =>
    { s with a := s.a ||| r, p := flagsZN (setFlag s.p .c c) (s.a ||| r) }) ∧
  (∀ o, ModifyResult (.rla o) rolFn fun r c s =>
    { s with a := s.a &&& r, p := flagsZN (setFlag s.p .c c) (s.a &&& r) }) ∧
  (∀ o, ModifyResult (.sre o) lsrFn fun r c s =>
    { s with a := s.a ^^^ r, p := flagsZN (setFlag s.p .c c) (s.a ^^^ r) }) ∧
  (∀ o, ModifyResult (.rra o) rorFn fun r c s => addA r { s with p := setFlag s.p .c c })

/-- JMP, absolute and indirect with its page-boundary bug (44_control_flow R240, R241; 40_step_and_addressing R157); the
indirect form raises what its two pointer reads raise. -/
def Obligations.JumpResults : Prop :=
  (∀ (a : Word) (s : State), Ends (.jmp (.abs a)) s { s with pc := a }) ∧
  (∀ (ptr : Word) (s s1 s2 : State) (lo hi : Byte), memRead s ptr = .ok (lo, s1) →
    memRead s1 ((ptr &&& 0xFF00) ||| ((ptr + 1) &&& 0x00FF)) = .ok (hi, s2) →
    Ends (.jmp (.ind ptr)) s { s2 with pc := word16 hi lo }) ∧
  (∀ (ptr : Word) (s : State) (e : Fault), memRead s ptr = .error e → exec (.jmp (.ind ptr)) s = .fault e) ∧
  (∀ (ptr : Word) (s s1 : State) (lo : Byte) (e : Fault), memRead s ptr = .ok (lo, s1) →
    memRead s1 ((ptr &&& 0xFF00) ||| ((ptr + 1) &&& 0x00FF)) = .error e → exec (.jmp (.ind ptr)) s = .fault e)

/-- JSR and RTS (44_control_flow R242, R243): the address of the JSR's last byte is pushed high byte first, at SP and
SP - 1 of page 1, each modulo 256; RTS pulls it and adds 1. -/
def Obligations.CallReturnResults : Prop :=
  ∀ s : State,
    (∀ a : Word, Ends (.jsr a) s { s with
      ram := Memory.write (Memory.write s.ram (0x100 + s.sp.toNat) (hiByte (s.pc + 1)))
        (0x100 + (s.sp - 1).toNat) (loByte (s.pc + 1))
      sp := s.sp - 2
      pc := a }) ∧
    Ends .rts s { s with
      sp := s.sp + 2
      pc := word16 (Memory.read s.ram (0x100 + (s.sp + 2).toNat)) (Memory.read s.ram (0x100 + (s.sp + 1).toNat)) + 1 }

/-- RTI (44_control_flow R244): P from the stack with B forced to 0 and B2 to 1, then PC, without adding 1. -/
def Obligations.RtiResult : Prop :=
  ∀ s : State,
    Ends .rti s { s with
      sp := s.sp + 3
      p := (Memory.read s.ram (0x100 + (s.sp + 1).toNat) &&& 0xEF) ||| 0x20
      pc := word16 (Memory.read s.ram (0x100 + (s.sp + 3).toNat)) (Memory.read s.ram (0x100 + (s.sp + 2).toNat)) }

/-- The eight branches (44_control_flow R245 to R252, 40_step_and_addressing R172). Not taken: nothing but the common
steps, and no read. Taken: one tick, the read of the byte at PC, one more tick when the target is on another page than the
next instruction, and PC; where one of the ticks or that read raises, so does the branch. The target is computed from the
offset `d` the instruction was decoded with, which is the byte that read gives (the model's choice, log 11;
`StepRunsDecoded`). -/
def Obligations.BranchResults : Prop :=
  ∀ (i : Instr) (f : Flag) (b : Bool) (d : Byte) (s : State), branchOf i = some (f, b, d) →
    (getFlag s.p f ≠ b → Ends i s s) ∧
    (getFlag s.p f = b →
      (∀ (s1 s2 s3 : State) (v : Byte), busTick s 1 = .ok s1 → memRead s1 s.pc = .ok (v, s2) →
        (if cross (s.pc + 1) (s.pc + 1 + sext16 d) then busTick s2 1 else .ok s2) = .ok s3 →
        Ends i s { s3 with pc := s.pc + 1 + sext16 d }) ∧
      (∀ e : Fault, busTick s 1 = .error e → exec i s = .fault e) ∧
      (∀ (s1 : State) (e : Fault), busTick s 1 = .ok s1 → memRead s1 s.pc = .error e → exec i s = .fault e) ∧
      (∀ (s1 s2 : State) (v : Byte) (e : Fault), busTick s 1 = .ok s1 → memRead s1 s.pc = .ok (v, s2) →
        cross (s.pc + 1) (s.pc + 1 + sext16 d) = true → busTick s2 1 = .error e → exec i s = .fault e))

/-- A taken branch whose offset byte stands where reads are plain completes, at the target, in the base cycles plus one,
plus one more where the target is on another page (40_step_and_addressing R172, 44_control_flow R245 to R252): what it
leaves is what those ticks leave, with PC at the target. By default it takes 3 or 4 cycles. The target is computed from the
decoded offset `d`, which is the byte standing there when a step decodes the branch (the model's choice, log 11). -/
def Obligations.BranchTakenCycles : Prop :=
  ∀ (i : Instr) (f : Flag) (b : Bool) (d v : Byte) (s : State), branchOf i = some (f, b, d) → HostSucceeds s →
    getFlag s.p f = b → plainByte s s.pc = some v →
    ∃ op t, i.opcode = some op ∧ exec i s = .next t ∧
      busTicks ([1] ++ (if cross (s.pc + 1) (s.pc + 1 + sext16 d) then [1] else []) ++ [baseCycles s op])
        { s with pc := pcAfter s.pc 2 (s.pc + 1 + sext16 d) } = .ok t ∧
      t.cycles = s.cycles + baseCycles s op + 1 + (if cross (s.pc + 1) (s.pc + 1 + sext16 d) then 1 else 0) ∧
      (s.cfg = defaultConfig →
        t.cycles = s.cycles + if cross (s.pc + 1) (s.pc + 1 + sext16 d) then 4 else 3)

/-- BRK halts the run and does nothing else (44_control_flow R253); NOP and the implied *NOP do nothing but the common
steps (R254, 46_undocumented R279); a *NOP with an operand reads it, with its side effects and errors (R280). -/
def Obligations.BrkNopResults : Prop :=
  (∀ s : State, exec .brk s = .next { s with run := .halted }) ∧
  (∀ s : State, Ends .nop s s) ∧
  (∀ (op : Byte) (s : State), (Instr.unop op .imp).opcode = some op → Ends (.unop op .imp) s s) ∧
  (∀ (op : Byte) (o : Operand), ReadResult (.unop op o) fun _ s => s)

/-- PHA, PLA, PHP, PLP (45_stack_flags R256 to R259). -/
def Obligations.StackResults : Prop :=
  ∀ s : State,
    Ends .pha s { s with ram := Memory.write s.ram (0x100 + s.sp.toNat) s.a, sp := s.sp - 1 } ∧
    Ends .pla s { s with
      sp := s.sp + 1
      a := Memory.read s.ram (0x100 + (s.sp + 1).toNat)
      p := flagsZN s.p (Memory.read s.ram (0x100 + (s.sp + 1).toNat)) } ∧
    Ends .php s { s with ram := Memory.write s.ram (0x100 + s.sp.toNat) (s.p ||| 0x30), sp := s.sp - 1 } ∧
    Ends .plp s { s with
      sp := s.sp + 1
      p := (Memory.read s.ram (0x100 + (s.sp + 1).toNat) &&& 0xEF) ||| 0x20 }

/-- CLC, SEC, CLI, SEI, CLD, SED, CLV (45_stack_flags R260 to R266): the one bit of P named. -/
def Obligations.FlagResults : Prop :=
  ∀ s : State,
    Ends .clc s { s with p := s.p &&& 0xFE } ∧
    Ends .sec s { s with p := s.p ||| 0x01 } ∧
    Ends .cli s { s with p := s.p &&& 0xFB } ∧
    Ends .sei s { s with p := s.p ||| 0x04 } ∧
    Ends .cld s { s with p := s.p &&& 0xF7 } ∧
    Ends .sed s { s with p := s.p ||| 0x08 } ∧
    Ends .clv s { s with p := s.p &&& 0xBF }

/-! ### Frames -/

/-- An instruction that stores nothing (every load, transfer, arithmetic, logic, compare, bit test, accumulator shift,
jump, branch, pull, return, flag instruction, NOP, BRK and UNSUPPORTED) leaves every byte of memory as it was. -/
def Obligations.NonStoringFrame : Prop :=
  ∀ (i : Instr) (s t : State), storesSomething i = false → exec i s = .next t →
    MemoryUnchangedBut none s t ∧ t.ram = s.ram ∧ t.apu = s.apu ∧ t.ppu.vram = s.ppu.vram ∧
      t.ppu.palette = s.ppu.palette ∧ t.ppu.oam = s.ppu.oam ∧ t.cart = s.cart

/-- STA, STX, STY, *SAX, INC, DEC, the memory forms of ASL, LSR, ROL, ROR, and the six composites leave every byte but the
one at the effective address as it was; the PPU's storages change only through a PPU port or OAM DMA. -/
def Obligations.StoreFrame : Prop :=
  ∀ (i : Instr) (a : Word) (s t : State), storeTarget i s = some a → exec i s = .next t →
    MemoryUnchangedBut (some (regionOf a)) s t ∧
    (regionOf a ≠ .port → t.ppu.vram = s.ppu.vram ∧ t.ppu.palette = s.ppu.palette) ∧
    (regionOf a ≠ .port → regionOf a ≠ .oamDma → t.ppu.oam = s.ppu.oam) ∧
    t.cart = s.cart

/-- PHA and PHP leave every byte but the one at `0x0100 + SP` as it was, JSR every byte but that and the one below
(modulo 256); the PPU's storages do not change. -/
def Obligations.PushFrame : Prop :=
  ∀ (i : Instr) (s t : State), exec i s = .next t → (i = .pha ∨ i = .php ∨ ∃ a, i = .jsr a) →
    (∀ b : Word, regionOf b ≠ .ram (0x100 + s.sp.toNat) →
      ((∃ a, i = .jsr a) → regionOf b ≠ .ram (0x100 + (s.sp - 1).toNat)) → plainByte t b = plainByte s b) ∧
    t.ppu.vram = s.ppu.vram ∧ t.ppu.palette = s.ppu.palette ∧ t.ppu.oam = s.ppu.oam ∧ t.cart = s.cart

/-- Only the instructions 10_state R20 to R24 list write A, X, Y and SP. -/
def Obligations.RegisterWriters : Prop :=
  ∀ (i : Instr) (s t : State), exec i s = .next t →
    (writesA i = false → t.a = s.a) ∧ (writesX i = false → t.x = s.x) ∧ (writesY i = false → t.y = s.y) ∧
      (writesSp i = false → t.sp = s.sp)

/-- An instruction writes no flag but those its rule lists (10_state R26 to R33). -/
def Obligations.FlagWriters : Prop :=
  ∀ (i : Instr) (s t : State), exec i s = .next t → OnlyFlags (writtenFlags i) s.p t.p

/-! ### The bus -/

/-- `BusTick(n)` (20_memory R100) and the frame callback (60_exceptions R379, R380): n CPU cycles and 3n PPU cycles; the
callback exactly when the signal went from Inactive to Active; on success it writes at most the buttons, on failure it
raises HostCallbackError. So no instruction and no step writes the buttons: they are what the callbacks of its ticks wrote
(10_state R41). The list of the host's replies, and that a host with no reply left succeeds and writes nothing, are the
model's choice (log 5). -/
def Obligations.BusTickEffect : Prop :=
  (∀ (n : Nat) (s c : State), c = { s with cycles := s.cycles + n, ppu := ppuTick (3 * n) s.ppu } →
    (¬ (s.ppu.nmi = .inactive ∧ c.ppu.nmi = .active) → busTick s n = .ok c) ∧
    (s.ppu.nmi = .inactive → c.ppu.nmi = .active →
      (s.frameReplies = [] → busTick s n = .ok c) ∧
      (∀ rest, s.frameReplies = .success none :: rest → busTick s n = .ok { c with frameReplies := rest }) ∧
      (∀ b rest, s.frameReplies = .success (some b) :: rest →
        busTick s n = .ok { c with frameReplies := rest, pad := { s.pad with buttons := b } }) ∧
      (∀ why rest, s.frameReplies = .failure why :: rest → busTick s n = .error (.hostCallback why)))) ∧
  (∀ s t : State, (step s = .next t ∨ ∃ i, exec i s = .next t) →
    ∃ taken, s.frameReplies = taken ++ t.frameReplies ∧ t.pad.buttons = buttonsAfter taken s.pad.buttons)

/-- The Bus read, row by row (20_memory R61, R63, R65, R67, R68, R70, R88, R97, R98); the PPU ports' rows are stated in
`PortRegisters` and `DataPort`. -/
def Obligations.BusReadMap : Prop :=
  ∀ (s : State) (a : Word),
    (a.toNat < 0x2000 → memRead s a = .ok (Memory.read s.ram (a.toNat % 0x800), s)) ∧
    (0x2000 ≤ a.toNat → a.toNat < 0x4000 → a.toNat % 8 ∈ [0, 1, 3, 5, 6] →
      memRead s a = .error (.memoryAccess .read a)) ∧
    (a.toNat = 0x4014 → memRead s a = .error (.memoryAccess .read a)) ∧
    (a.toNat = 0x4016 →
      (s.pad.strobe = true →
        memRead s a = .ok (byteOfBool (s.pad.buttons.getLsbD 0), { s with pad := { s.pad with index := 0 } })) ∧
      (s.pad.strobe = false → 8 ≤ s.pad.index → memRead s a = .ok (0x01, s)) ∧
      (s.pad.strobe = false → s.pad.index < 8 →
        memRead s a = .ok (byteOfBool (s.pad.buttons.getLsbD s.pad.index),
          { s with pad := { s.pad with index := s.pad.index + 1 } }))) ∧
    (0x4000 ≤ a.toNat → a.toNat < 0x4018 → a.toNat ≠ 0x4014 → a.toNat ≠ 0x4016 →
      memRead s a = .ok (if s.cfg.apuReadMode = .stored then Memory.read s.apu a.toNat else 0x00, s)) ∧
    (0x4018 ≤ a.toNat → a.toNat < 0x8000 → memRead s a = .ok (0x00, s)) ∧
    (0x8000 ≤ a.toNat → s.cart.mapper = .nrom128 →
      memRead s a = .ok (Memory.read s.cart.prg.bytes ((a.toNat - 0x8000) % 0x4000), s)) ∧
    (0x8000 ≤ a.toNat → s.cart.mapper = .nrom256 →
      memRead s a = .ok (Memory.read s.cart.prg.bytes (a.toNat - 0x8000), s))

/-- The Bus write, row by row (20_memory R62, R63, R66, R67, R69, R71, R87); the other PPU ports' rows are stated in
`PortRegisters` and `DataPort`, OAM DMA in `OamDma`. -/
def Obligations.BusWriteMap : Prop :=
  ∀ (s : State) (a : Word) (v : Byte),
    (a.toNat < 0x2000 → memWrite s a v = .ok { s with ram := Memory.write s.ram (a.toNat % 0x800) v }) ∧
    (0x2000 ≤ a.toNat → a.toNat < 0x4000 → a.toNat % 8 = 2 → memWrite s a v = .error (.memoryAccess .write a)) ∧
    (0x2000 ≤ a.toNat → a.toNat < 0x4000 → a.toNat % 8 = 4 → s.cfg.oamDataWrite = .fault →
      memWrite s a v = .error (.memoryAccess .write a)) ∧
    (a.toNat = 0x4016 → memWrite s a v =
      .ok { s with pad := { s.pad with strobe := v.getLsbD 0, index := if v.getLsbD 0 then 0 else s.pad.index } }) ∧
    (0x4000 ≤ a.toNat → a.toNat < 0x4018 → a.toNat ≠ 0x4014 → a.toNat ≠ 0x4016 →
      memWrite s a v = .ok { s with apu := Memory.write s.apu a.toNat v }) ∧
    (0x4018 ≤ a.toNat → a.toNat < 0x8000 → memWrite s a v = .ok s) ∧
    (0x8000 ≤ a.toNat → memWrite s a v = .error (.memoryAccess .write a))

/-- The mirrors (20_memory R63, R64): RAM addresses equal modulo 0x800 and port addresses equal modulo 8 are one location,
for reads and for writes, with every effect and every error (which names the address as issued). -/
def Obligations.AddressMirrors : Prop :=
  (∀ (s : State) (a b : Word) (v : Byte), a.toNat < 0x2000 → b.toNat < 0x2000 → a.toNat % 0x800 = b.toNat % 0x800 →
    memRead s a = memRead s b ∧ memWrite s a v = memWrite s b v ∧
      (∀ t, memWrite s a v = .ok t → memRead t b = .ok (v, t))) ∧
  (∀ (s : State) (a b : Word) (v : Byte), 0x2000 ≤ a.toNat → a.toNat < 0x4000 → 0x2000 ≤ b.toNat → b.toNat < 0x4000 →
    a.toNat % 8 = b.toNat % 8 →
    (∀ r, memRead s a = .ok r → memRead s b = .ok r) ∧
    (memRead s a = .error (.memoryAccess .read a) → memRead s b = .error (.memoryAccess .read b)) ∧
    (∀ t, memWrite s a v = .ok t → memWrite s b v = .ok t) ∧
    (memWrite s a v = .error (.memoryAccess .write a) → memWrite s b v = .error (.memoryAccess .write b)))

/-- The OAM write-all (50_ppu R325), and OAM DMA from every page (20_memory R86). From a page whose reads are plain, byte i
of the page lands at OAM address `(oamAddr + i) mod 256`, nothing else changes, and the extra cycles, where the parameter
has some, are ticked after it. A page of PPU ports raises at its first byte, a write-only port, and page 0x40 at 0x4014; the
OAM is then not written, since there is no state after it. Every page is one of these. -/
def Obligations.OamDma : Prop :=
  (∀ (u : Ppu) (data : List Byte), data.length = 256 →
    oamWriteAll data u = { u with oam := (oamWriteAll data u).oam } ∧
    ∀ i (h : i < data.length), Memory.read (oamWriteAll data u).oam ((u.oamAddr.toNat + i) % 256) = data[i]) ∧
  (∀ (s : State) (v : Byte) (data : List Byte), data.length = 256 →
    (∀ i (h : i < data.length), plainByte s (word16 v 0 + BitVec.ofNat 16 i) = some data[i]) →
    memWrite s 0x4014 v =
      (if 0 < s.cfg.oamDmaExtraCycles then busTick { s with ppu := oamWriteAll data s.ppu } s.cfg.oamDmaExtraCycles
      else .ok { s with ppu := oamWriteAll data s.ppu })) ∧
  (∀ (s : State) (v : Byte), 0x20 ≤ v.toNat → v.toNat < 0x40 →
    memWrite s 0x4014 v = .error (.memoryAccess .read (word16 v 0))) ∧
  (∀ s : State, memWrite s 0x4014 0x40 = .error (.memoryAccess .read 0x4014)) ∧
  (∀ (s : State) (v : Byte), (v.toNat < 0x20 ∨ 0x40 < v.toNat) → ∀ i : Nat, i < 256 →
    (plainByte s (word16 v 0 + BitVec.ofNat 16 i)).isSome = true)

/-- The PPU ports but 0x2007, through every mirror (50_ppu R301, R303, R305 to R310; 20_memory R64). -/
def Obligations.PortRegisters : Prop :=
  ∀ (s : State) (a : Word) (v : Byte), 0x2000 ≤ a.toNat → a.toNat < 0x4000 →
    (a.toNat % 8 = 0 → memWrite s a v = .ok { s with ppu := { s.ppu with
      ctrl := v
      nmi := if s.ppu.ctrl.getLsbD 7 = false ∧ v.getLsbD 7 = true ∧ s.ppu.status.getLsbD 7 = true then .active
        else s.ppu.nmi } }) ∧
    (a.toNat % 8 = 1 → memWrite s a v = .ok { s with ppu := { s.ppu with mask := v } }) ∧
    (a.toNat % 8 = 2 → memRead s a = .ok (s.ppu.status, { s with ppu := { s.ppu with
      status := s.ppu.status &&& 0x7F, addrToggle := .first, scrollToggle := .first } })) ∧
    (a.toNat % 8 = 3 → memWrite s a v = .ok { s with ppu := { s.ppu with oamAddr := v } }) ∧
    (a.toNat % 8 = 4 → memRead s a = .ok (Memory.read s.ppu.oam s.ppu.oamAddr.toNat, s)) ∧
    (a.toNat % 8 = 4 → s.cfg.oamDataWrite = .allowed → memWrite s a v = .ok { s with ppu := { s.ppu with
      oam := Memory.write s.ppu.oam s.ppu.oamAddr.toNat v, oamAddr := s.ppu.oamAddr + 1 } }) ∧
    (a.toNat % 8 = 5 → s.ppu.scrollToggle = .first → memWrite s a v = .ok { s with ppu := { s.ppu with
      scrollX := v
      scrollToggle := .second
      addrToggle := if s.cfg.toggleMode = .shared then .second else s.ppu.addrToggle } }) ∧
    (a.toNat % 8 = 5 → s.ppu.scrollToggle = .second → memWrite s a v = .ok { s with ppu := { s.ppu with
      scrollY := v
      scrollToggle := .first
      addrToggle := if s.cfg.toggleMode = .shared then .first else s.ppu.addrToggle } }) ∧
    (a.toNat % 8 = 6 → s.ppu.addrToggle = .first → memWrite s a v = .ok { s with ppu := { s.ppu with
      addr := BitVec.ofNat 16 ((256 * v.toNat + s.ppu.addr.toNat % 256) % 0x4000)
      addrToggle := .second
      scrollToggle := if s.cfg.toggleMode = .shared then .second else s.ppu.scrollToggle } }) ∧
    (a.toNat % 8 = 6 → s.ppu.addrToggle = .second → memWrite s a v = .ok { s with ppu := { s.ppu with
      addr := BitVec.ofNat 16 ((256 * (s.ppu.addr.toNat / 256) + v.toNat) % 0x4000)
      addrToggle := .first
      scrollToggle := if s.cfg.toggleMode = .shared then .first else s.ppu.scrollToggle } })

/-- The data port 0x2007, through every mirror (50_ppu R311 to R313): a read below the palette gives the buffered byte and
refills the buffer, a palette read is immediate and leaves the buffer, a write goes to the PPU address; every completed
access moves the address by 1 or 32 within 14 bits, and an access whose PPU address faults is that fault. -/
def Obligations.DataPort : Prop :=
  ∀ (s : State) (a next : Word) (v : Byte), 0x2000 ≤ a.toNat → a.toNat < 0x4000 → a.toNat % 8 = 7 →
    next = BitVec.ofNat 16 ((s.ppu.addr.toNat + if s.ppu.ctrl.getLsbD 2 then 32 else 1) % 0x4000) →
    (∀ w, ppuRead s.cfg s.cart s.ppu s.ppu.addr = .ok w → s.ppu.addr.toNat ≤ 0x3EFF →
      memRead s a = .ok (s.ppu.dataBuf, { s with ppu := { s.ppu with addr := next, dataBuf := w } })) ∧
    (∀ w, ppuRead s.cfg s.cart s.ppu s.ppu.addr = .ok w → 0x3F00 ≤ s.ppu.addr.toNat →
      memRead s a = .ok (w, { s with ppu := { s.ppu with addr := next } })) ∧
    (∀ e, ppuRead s.cfg s.cart s.ppu s.ppu.addr = .error e → memRead s a = .error e) ∧
    (∀ u, ppuWrite s.cfg s.ppu s.ppu.addr v = .ok u → memWrite s a v = .ok { s with ppu := { u with addr := next } }) ∧
    (∀ e, ppuWrite s.cfg s.ppu s.ppu.addr v = .error e → memWrite s a v = .error e)

/-- The PPU address space (50_ppu R314 to R318): CHR read-only and inside its size; the nametables through the mirroring;
0x3000 to 0x3EFF as 0x1000 below; the palette with the aliases of `P_PALETTE_MIRRORS`, by default the four. -/
def Obligations.PpuAddressSpace : Prop :=
  ∀ (cfg : Config) (cart : Cart) (u : Ppu) (a : Word) (v : Byte),
    (a.toNat < 0x2000 →
      ppuRead cfg cart u a =
        (if a.toNat < cart.chr.size then .ok (Memory.read cart.chr.bytes a.toNat) else .error (.chrOutOfRange a)) ∧
      ppuWrite cfg u a v = .ok u) ∧
    (0x2000 ≤ a.toNat → a.toNat < 0x3000 → ∀ t w : Nat, t = (a.toNat - 0x2000) / 0x400 → w = (a.toNat - 0x2000) % 0x400 →
      (∀ bank, (u.mirroring = .horizontal ∧ bank = t / 2) ∨ (u.mirroring = .vertical ∧ bank = t % 2) ∨
          (u.mirroring = .fourScreen ∧ t < 2 ∧ bank = t) →
        ppuRead cfg cart u a = .ok (Memory.read u.vram (bank * 0x400 + w)) ∧
        ppuWrite cfg u a v = .ok { u with vram := Memory.write u.vram (bank * 0x400 + w) v }) ∧
      (u.mirroring = .fourScreen → 2 ≤ t →
        ppuRead cfg cart u a = .error .fourScreenUnsupported ∧
        ppuWrite cfg u a v = .error .fourScreenUnsupported)) ∧
    (0x3000 ≤ a.toNat → a.toNat < 0x3F00 →
      ppuRead cfg cart u a = ppuRead cfg cart u (a - 0x1000) ∧
      ppuWrite cfg u a v = ppuWrite cfg u (a - 0x1000) v) ∧
    (0x3F00 ≤ a.toNat → a.toNat < 0x4000 → ∀ i j : Nat, i = (a.toNat - 0x3F00) % 32 →
      j = (if i ∈ cfg.paletteMirrors then i - 0x10 else i) →
      ppuRead cfg cart u a = .ok (Memory.read u.palette j) ∧
      ppuWrite cfg u a v = .ok { u with palette := Memory.write u.palette j v }) ∧
    defaultConfig.paletteMirrors = [0x10, 0x14, 0x18, 0x1C]

/-- `PpuTick(n)` (50_ppu R319 to R323): the cycles are added, the sprite-0 test is made once, and then a scanline passes as
long as 341 cycles are there; scanline 241 sets vblank and, where it is enabled, the NMI signal; scanline 262 is scanline 0,
with vblank, sprite-0 hit and the signal cleared. -/
def Obligations.TickEffect : Prop :=
  (∀ (n : Nat) (u : Ppu), ∃ k,
    ppuTick n u = nextScanline^[k] (spriteZeroTest { u with cycle := u.cycle + n }) ∧ (ppuTick n u).cycle < 341 ∧
    ∀ j, j < k → 341 ≤ (nextScanline^[j] (spriteZeroTest { u with cycle := u.cycle + n })).cycle) ∧
  (∀ u : Ppu, spriteZeroTest u = { u with
    status := if (Memory.read u.oam 0).toNat = u.scanline ∧ (Memory.read u.oam 3).toNat ≤ u.cycle ∧
      u.mask.getLsbD 4 = true then u.status ||| 0x40 else u.status }) ∧
  (∀ u : Ppu,
    (u.scanline = 240 → nextScanline u = { u with
      cycle := u.cycle - 341, scanline := 241, status := u.status ||| 0x80,
      nmi := if u.ctrl.getLsbD 7 then .active else u.nmi }) ∧
    (u.scanline = 261 → nextScanline u = { u with
      cycle := u.cycle - 341, scanline := 0, status := u.status &&& 0x3F, nmi := .inactive }) ∧
    (u.scanline ≠ 240 → u.scanline ≠ 261 → nextScanline u = { u with
      cycle := u.cycle - 341, scanline := u.scanline + 1 }))

/-- A bus access changes the NMI signal in one case only (50_ppu R324): the control write that turns the enable bit from 0
to 1 while vblank is set. A status read leaves a pending NMI pending (R305). OAM DMA, which may tick under a parameter, is
left to `BusTickEffect`. -/
def Obligations.NmiSignalChanges : Prop :=
  (∀ (s t : State) (a : Word) (v : Byte), memRead s a = .ok (v, t) → t.ppu.nmi = s.ppu.nmi) ∧
  (∀ (s t : State) (a : Word) (v : Byte), memWrite s a v = .ok t → a ≠ 0x4014 →
    t.ppu.nmi = if 0x2000 ≤ a.toNat ∧ a.toNat < 0x4000 ∧ a.toNat % 8 = 0 ∧ s.ppu.ctrl.getLsbD 7 = false ∧
      v.getLsbD 7 = true ∧ s.ppu.status.getLsbD 7 = true then .active else s.ppu.nmi)

/-- The cartridge load (20_memory R89 to R96): the checks in their order with their reasons, and the cartridge they
leave. -/
def Obligations.CartridgeLoad : Prop :=
  ∀ (img : List Byte) (prgStart prgLen chrStart chrLen : Nat) (id : Byte),
    prgStart = 16 + (if (img.getD 6 0).getLsbD 2 then 512 else 0) → prgLen = 16384 * (img.getD 4 0).toNat →
    chrStart = prgStart + prgLen → chrLen = 8192 * (img.getD 5 0).toNat →
    id = ((img.getD 7 0 : Byte) &&& (0xF0 : Byte)) ||| ((img.getD 6 0 : Byte) >>> 4) →
    (img.take 4 ≠ [0x4E, 0x45, 0x53, 0x1A] → Cart.load img = .error .badMagic) ∧
    (img.take 4 = [0x4E, 0x45, 0x53, 0x1A] →
      (img.length < 16 → Cart.load img = .error .truncated) ∧
      (16 ≤ img.length →
        ((img.getD 7 0).toNat / 4 % 4 ≠ 0 → Cart.load img = .error .unsupportedVersion) ∧
        ((img.getD 7 0).toNat / 4 % 4 = 0 →
          (img.length < chrStart + chrLen → Cart.load img = .error .truncated) ∧
          (chrStart + chrLen ≤ img.length →
            (id ≠ 0 ∨ ((img.getD 4 0).toNat ≠ 1 ∧ (img.getD 4 0).toNat ≠ 2) →
              Cart.load img = .error (.unsupportedMapper id)) ∧
            (id = 0 → (img.getD 4 0).toNat = 1 ∨ (img.getD 4 0).toNat = 2 →
              ∃ c, Cart.load img = .ok c ∧ c.prg.size = prgLen ∧ c.chr.size = chrLen ∧
                (∀ k, k < prgLen → Memory.read c.prg.bytes k = img.getD (prgStart + k) 0) ∧
                (∀ k, k < chrLen → Memory.read c.chr.bytes k = img.getD (chrStart + k) 0) ∧
                c.mapperId = 0 ∧ c.trainer = (img.getD 6 0).getLsbD 2 ∧
                c.mapper = (if (img.getD 4 0).toNat = 1 then .nrom128 else .nrom256) ∧
                c.mirroring = (if (img.getD 6 0).getLsbD 3 then .fourScreen
                  else if (img.getD 6 0).getLsbD 0 then .vertical else .horizontal))))))
end

