-- ==== Sys2Proof/Laws/Flags.lean ====
section
/-! SUPPORT. What the flag operations do to each flag. -/

namespace Sys2Proof.Machine

theorem bitOf_setBit (v : Byte) {k j : Nat} (b : Bool) (hj : j < 8) :
    bitOf (setBit v k b) j = if k = j then b else bitOf v j := by
  by_cases hkj : k = j
  · subst hkj; cases b <;> simp [bitOf, setBit, bitMask, hj]
  · cases b
    · simp only [bitOf, setBit, bitMask, Bool.false_eq_true, if_false, BitVec.getLsbD_and, BitVec.getLsbD_not,
        BitVec.getLsbD_shiftLeft, BitVec.getLsbD_one, hkj, hj, decide_true, Bool.true_and]
      by_cases h : j < k
      · simp [h]
      · have : j - k ≠ 0 := by omega
        simp [h, this]
    · simp only [bitOf, setBit, bitMask, if_true, BitVec.getLsbD_or, BitVec.getLsbD_shiftLeft, BitVec.getLsbD_one, hkj,
        if_false, hj, decide_true, Bool.true_and]
      by_cases h : j < k
      · simp [h]
      · have : j - k ≠ 0 := by omega
        simp [h, this]

theorem Flag.index_lt (f : Flag) : f.index < 8 := by cases f <;> decide

theorem Flag.index_inj {f g : Flag} : f.index = g.index ↔ f = g := by cases f <;> cases g <;> decide

/-- A flag write sets that flag and no other. -/
@[simp] theorem getFlag_setFlag (p : Byte) (f g : Flag) (b : Bool) :
    getFlag (setFlag p f b) g = if f = g then b else getFlag p g := by
  simp [getFlag, setFlag, bitOf_setBit _ _ g.index_lt, Flag.index_inj]

@[simp] theorem getFlag_flagsZN (p v : Byte) (g : Flag) :
    getFlag (flagsZN p v) g = if g = .n then bitOf v 7 else if g = .z then (v == 0) else getFlag p g := by
  cases g <;> simp [flagsZN]

@[simp] theorem getFlag_flagsAdd (p a m : Byte) (g : Flag) :
    getFlag (flagsAdd p a m) g =
      match g with
      | .c => decide (addSum a m (getFlag p .c) ≥ 256)
      | .v => bitOf ((a ^^^ addResult a m (getFlag p .c)) &&& (m ^^^ addResult a m (getFlag p .c))) 7
      | .z => addResult a m (getFlag p .c) == 0
      | .n => bitOf (addResult a m (getFlag p .c)) 7
      | g => getFlag p g := by
  cases g <;> simp [flagsAdd]

@[simp] theorem getFlag_flagsCompare (p r m : Byte) (g : Flag) :
    getFlag (flagsCompare p r m) g =
      match g with
      | .c => decide (r.toNat ≥ m.toNat)
      | .z => r - m == 0
      | .n => bitOf (r - m) 7
      | g => getFlag p g := by
  cases g <;> simp [flagsCompare]

@[simp] theorem getFlag_flagsBit (p a m : Byte) (g : Flag) :
    getFlag (flagsBit p a m) g =
      match g with
      | .z => (a &&& m) == 0
      | .v => bitOf m 6
      | .n => bitOf m 7
      | g => getFlag p g := by
  cases g <;> simp [flagsBit]

/-- A pulled status has B clear, B2 set and the pulled byte's other flags. -/
@[simp] theorem getFlag_pulledStatus (v : Byte) (g : Flag) :
    getFlag (pulledStatus v) g = match g with | .b => false | .b2 => true | g => getFlag v g := by
  cases g <;> simp [getFlag, pulledStatus, bitOf, Flag.index]

@[simp] theorem getFlag_pushedByPhp (v : Byte) (g : Flag) :
    getFlag (pushedByPhp v) g = match g with | .b => true | .b2 => true | g => getFlag v g := by
  cases g <;> simp [getFlag, pushedByPhp, bitOf, Flag.index]

@[simp] theorem getFlag_pushedByNmi (v : Byte) (g : Flag) :
    getFlag (pushedByNmi v) g = match g with | .b => false | .b2 => true | g => getFlag v g := by
  cases g <;> simp [getFlag, pushedByNmi, bitOf, Flag.index]

/-- Two status bytes with the same flags are equal. -/
theorem status_ext {p q : Byte} (h : ∀ f, getFlag p f = getFlag q f) : p = q := by
  apply BitVec.eq_of_getLsbD_eq
  intro i hi
  have h0 := h .c; have h1 := h .z; have h2 := h .i; have h3 := h .d
  have h4 := h .b; have h5 := h .b2; have h6 := h .v; have h7 := h .n
  simp only [getFlag, bitOf, Flag.index] at h0 h1 h2 h3 h4 h5 h6 h7
  have : i = 0 ∨ i = 1 ∨ i = 2 ∨ i = 3 ∨ i = 4 ∨ i = 5 ∨ i = 6 ∨ i = 7 := by omega
  rcases this with rfl | rfl | rfl | rfl | rfl | rfl | rfl | rfl <;> assumption

end Sys2Proof.Machine
end

