-- ==== Sys2Proof/Laws/Memory.lean ====
section
/-! SUPPORT. What a storage's operations do: read after write, and that they keep the canonical form. -/

namespace Sys2Proof.Machine

theorem Memory.read_erase_same (m : Memory) (a : Nat) : Memory.read (Memory.erase m a) a = Memory.unlisted := by
  induction m with
  | nil => rfl
  | cons c t ih =>
    obtain ⟨b, v⟩ := c
    by_cases h : a = b
    · simpa [Memory.erase, h] using h ▸ ih
    · simpa [Memory.erase, Memory.read, h] using ih

theorem Memory.read_erase_ne (m : Memory) {a a' : Nat} (h : a' ≠ a) :
    Memory.read (Memory.erase m a) a' = Memory.read m a' := by
  induction m with
  | nil => rfl
  | cons c t ih =>
    obtain ⟨b, v⟩ := c
    by_cases hb : a = b
    · subst hb; simpa [Memory.erase, Memory.read, h] using ih
    · by_cases h' : a' = b <;> simp [Memory.erase, Memory.read, hb, h', ih]
      

theorem Memory.read_insert_ne (m : Memory) {a a' : Nat} (v : Byte) (h : a' ≠ a) :
    Memory.read (Memory.insert m a v) a' = Memory.read m a' := by
  induction m with
  | nil => simp [Memory.insert, Memory.read, h]
  | cons c t ih =>
    obtain ⟨b, w⟩ := c
    by_cases hb : a < b
    · simp [Memory.insert, Memory.read, hb, h]
    · simp [Memory.insert, Memory.read, hb, ih]

theorem Memory.read_insert_erase (m : Memory) (a : Nat) (v : Byte) :
    Memory.read (Memory.insert (Memory.erase m a) a v) a = v := by
  induction m with
  | nil => simp [Memory.erase, Memory.insert, Memory.read]
  | cons c t ih =>
    obtain ⟨b, w⟩ := c
    by_cases hb : a = b
    · simpa [Memory.erase, hb] using hb ▸ ih
    · by_cases hl : a < b <;> simp [Memory.erase, Memory.insert, Memory.read, hb, hl, ih]

/-- A read gives the byte last written at its address. -/
@[simp] theorem Memory.read_write_same (m : Memory) (a : Nat) (v : Byte) : Memory.read (Memory.write m a v) a = v := by
  by_cases h : v = Memory.unlisted
  · simp [Memory.write, h, Memory.read_erase_same]
  · simp [Memory.write, h, Memory.read_insert_erase]

/-- A write leaves every other address alone. -/
theorem Memory.read_write_ne (m : Memory) {a a' : Nat} (v : Byte) (h : a' ≠ a) :
    Memory.read (Memory.write m a v) a' = Memory.read m a' := by
  by_cases hv : v = Memory.unlisted
  · simp [Memory.write, hv, Memory.read_erase_ne m h]
  · simp [Memory.write, hv, Memory.read_insert_ne _ v h, Memory.read_erase_ne m h]

theorem Memory.all_erase {m : Memory} {a : Nat} {q : Host.Cell → Bool} (h : m.all q = true) :
    (Memory.erase m a).all q = true := by
  induction m with
  | nil => rfl
  | cons c t ih =>
    obtain ⟨b, v⟩ := c
    simp only [List.all_cons, Bool.and_eq_true] at h
    by_cases hb : a = b
    · subst hb; simp only [Memory.erase, if_true]; exact ih h.2
    · simp only [Memory.erase, hb, if_false, List.all_cons, h.1, ih h.2, Bool.and_self]

theorem Memory.all_insert {m : Memory} {a : Nat} {v : Byte} {q : Host.Cell → Bool} (h : m.all q = true)
    (hq : q (a, v) = true) : (Memory.insert m a v).all q = true := by
  induction m with
  | nil => simp [Memory.insert, hq]
  | cons c t ih =>
    obtain ⟨b, w⟩ := c
    simp only [List.all_cons, Bool.and_eq_true] at h
    by_cases hb : a < b
    · simpa [Memory.insert, hb, hq, h.1] using h.2
    · simpa [Memory.insert, hb, h.1] using ih h.2

/-- Whatever holds of every cell and of the one written holds of every cell after the write. -/
theorem Memory.all_write {m : Memory} {a : Nat} {v : Byte} {q : Host.Cell → Bool} (h : m.all q = true)
    (hq : q (a, v) = true) : (Memory.write m a v).all q = true := by
  by_cases hv : v = Memory.unlisted
  · simpa [Memory.write, hv] using Memory.all_erase h
  · simpa [Memory.write, hv] using Memory.all_insert (Memory.all_erase h) hq

theorem Memory.wf_erase {m : Memory} {a : Nat} (h : Memory.wf m = true) : Memory.wf (Memory.erase m a) = true := by
  induction m with
  | nil => rfl
  | cons c t ih =>
    obtain ⟨b, v⟩ := c
    simp only [Memory.wf, Bool.and_eq_true] at h
    by_cases hb : a = b
    · simpa [Memory.erase, hb] using hb ▸ ih h.2
    · have h2 := Memory.all_erase (a := a) h.1.2
      simpa [Memory.erase, hb, Memory.wf, h.1.1, ih h.2] using h2

theorem Memory.wf_insert {m : Memory} {a : Nat} {v : Byte} (h : Memory.wf m = true) (hv : v ≠ Memory.unlisted)
    (ha : m.all (fun c => c.1 != a) = true) : Memory.wf (Memory.insert m a v) = true := by
  induction m with
  | nil => simp [Memory.insert, Memory.wf, hv]
  | cons c t ih =>
    obtain ⟨b, w⟩ := c
    simp only [Memory.wf, Bool.and_eq_true] at h
    simp only [List.all_cons, Bool.and_eq_true, bne_iff_ne] at ha
    by_cases hb : a < b
    · have ht : ∀ c ∈ t, a < c.1 := fun c hc => by
        have := List.all_eq_true.1 h.1.2 c hc
        simp at this; omega
      simp [Memory.insert, hb, Memory.wf, hv, h.2]
      exact ⟨fun c v hc => ht (c, v) hc, by simpa using h.1⟩
    · have hba : b < a := by omega
      have := Memory.all_insert (v := v) h.1.2 (a := a) (by simpa using hba)
      simpa [Memory.insert, hb, Memory.wf, h.1.1, ih h.2 ha.2] using this

theorem Memory.erase_no_key (m : Memory) (a : Nat) : (Memory.erase m a).all (fun c => c.1 != a) = true := by
  induction m with
  | nil => rfl
  | cons c t ih =>
    obtain ⟨b, v⟩ := c
    by_cases hb : a = b
    · subst hb; simp only [Memory.erase, if_true]; exact ih
    · simp only [Memory.erase, hb, if_false, List.all_cons, ih, Bool.and_true, bne_iff_ne]; exact Ne.symm hb

/-- A write keeps the canonical form. -/
theorem Memory.wf_write {m : Memory} {a : Nat} {v : Byte} (h : Memory.wf m = true) :
    Memory.wf (Memory.write m a v) = true := by
  by_cases hv : v = Memory.unlisted
  · simpa [Memory.write, hv] using Memory.wf_erase h
  · simpa [Memory.write, hv] using Memory.wf_insert (Memory.wf_erase h) hv (Memory.erase_no_key m a)

/-- A write below the bound keeps the bound. -/
theorem Memory.below_write {n : Nat} {m : Memory} {a : Nat} {v : Byte} (h : Memory.below n m = true) (ha : a < n) :
    Memory.below n (Memory.write m a v) = true :=
  Memory.all_write h (by simpa using ha)

/-- The storage of a byte list has its canonical form, every cell at or above the first address. -/
theorem Memory.wf_ofBytes (k : Nat) (bs : List Byte) :
    Memory.wf (Memory.ofBytes k bs) = true ∧ (Memory.ofBytes k bs).all (fun c => decide (k ≤ c.1)) = true := by
  induction bs generalizing k with
  | nil => exact ⟨rfl, rfl⟩
  | cons v t ih =>
    obtain ⟨hw, ha⟩ := ih (k + 1)
    simp only [List.all_eq_true, decide_eq_true_eq] at ha
    by_cases hv : v = Memory.unlisted
    · simp only [Memory.ofBytes, hv, if_true, hw, List.all_eq_true, decide_eq_true_eq, true_and]
      intro c hc; have := ha c hc; omega
    · simp only [Memory.ofBytes, hv, if_false, Memory.wf, hw, Bool.and_true, Bool.and_eq_true, bne_iff_ne, ne_eq,
        not_false_eq_true, true_and, List.all_cons, List.all_eq_true, decide_eq_true_eq, le_refl]
      exact ⟨fun c hc => by have := ha c hc; omega, fun c hc => by have := ha c hc; omega⟩

/-- The storage of a byte list reads as the list, and as the fill past its end. -/
theorem Memory.read_ofBytes (bs : List Byte) (k j : Nat) :
    Memory.read (Memory.ofBytes k bs) (k + j) = bs.getD j Memory.unlisted := by
  induction bs generalizing k j with
  | nil => simp [Memory.ofBytes, Memory.read]
  | cons v t ih =>
    have hlow : ∀ m : Memory, m.all (fun c => decide (k + 1 ≤ c.1)) = true → Memory.read m k = Memory.unlisted := by
      intro m hm
      induction m with
      | nil => rfl
      | cons c m ihm =>
        simp only [List.all_cons, Bool.and_eq_true, decide_eq_true_eq] at hm
        obtain ⟨b, w⟩ := c
        have : k ≠ b := by have := hm.1; simp at this; omega
        simpa [Memory.read, this] using ihm hm.2
    cases j with
    | zero =>
      by_cases hv : v = Memory.unlisted
      · simpa [Memory.ofBytes, hv] using hlow _ (Memory.wf_ofBytes (k + 1) t).2
      · simp [Memory.ofBytes, hv, Memory.read]
    | succ j =>
      have := ih (k + 1) j
      rw [show k + 1 + j = k + (j + 1) by omega] at this
      by_cases hv : v = Memory.unlisted
      · simpa [Memory.ofBytes, hv] using this
      · simpa [Memory.ofBytes, hv, Memory.read] using this

/-- A filled storage reads as its byte at each of its addresses. -/
theorem Memory.read_filled {addrs : List Nat} {a : Nat} (v : Byte) (h : a ∈ addrs) :
    Memory.read (Memory.filled addrs v) a = v := by
  by_cases hv : v = Memory.unlisted
  · simp [Memory.filled, hv, Memory.read]
  · simp only [Memory.filled, hv, if_false]
    induction addrs with
    | nil => simp at h
    | cons b t ih =>
      by_cases hb : a = b
      · simp [Memory.read, hb]
      · simpa [Memory.read, hb] using ih ((List.mem_cons.1 h).resolve_left hb)

/-- A filled storage names only its addresses. -/
theorem Memory.all_filled {addrs : List Nat} (v : Byte) {q : Nat → Bool} (h : addrs.all q = true) :
    (Memory.filled addrs v).all (fun c => q c.1) = true := by
  unfold Memory.filled
  split
  · rfl
  · simpa [List.all_map] using h

/-- A storage filled at rising addresses has the canonical form. -/
theorem Memory.wf_filled {addrs : List Nat} (v : Byte) (h : addrs.Pairwise (· < ·)) :
    Memory.wf (Memory.filled addrs v) = true := by
  by_cases hv : v = Memory.unlisted
  · simp [Memory.filled, hv, Memory.wf]
  · simp only [Memory.filled, hv, if_false]
    induction h with
    | nil => rfl
    | cons hb _ ih => simp [Memory.wf, hv, ih]; exact hb

end Sys2Proof.Machine
end

