-- ==== Sys2Proof/Laws/State.lean ====
section
/-! SUPPORT. The small lemmas of the state's named updates: one per field, true by definition. -/

namespace Sys2Proof.Machine

@[simp] theorem setZN_a (v : Byte) (s : State) : (setZN v s).a = s.a := rfl
@[simp] theorem setZN_x (v : Byte) (s : State) : (setZN v s).x = s.x := rfl
@[simp] theorem setZN_y (v : Byte) (s : State) : (setZN v s).y = s.y := rfl
@[simp] theorem setZN_sp (v : Byte) (s : State) : (setZN v s).sp = s.sp := rfl
@[simp] theorem setZN_p (v : Byte) (s : State) : (setZN v s).p = flagsZN s.p v := rfl
@[simp] theorem setZN_pc (v : Byte) (s : State) : (setZN v s).pc = s.pc := rfl
@[simp] theorem setZN_run (v : Byte) (s : State) : (setZN v s).run = s.run := rfl
@[simp] theorem setZN_ram (v : Byte) (s : State) : (setZN v s).ram = s.ram := rfl
@[simp] theorem setZN_apu (v : Byte) (s : State) : (setZN v s).apu = s.apu := rfl
@[simp] theorem setZN_cycles (v : Byte) (s : State) : (setZN v s).cycles = s.cycles := rfl
@[simp] theorem setZN_ppu (v : Byte) (s : State) : (setZN v s).ppu = s.ppu := rfl
@[simp] theorem setZN_cart (v : Byte) (s : State) : (setZN v s).cart = s.cart := rfl
@[simp] theorem setZN_pad (v : Byte) (s : State) : (setZN v s).pad = s.pad := rfl
@[simp] theorem setZN_cfg (v : Byte) (s : State) : (setZN v s).cfg = s.cfg := rfl
@[simp] theorem setZN_frameReplies (v : Byte) (s : State) : (setZN v s).frameReplies = s.frameReplies := rfl

@[simp] theorem putA_a (v : Byte) (s : State) : (putA v s).a = v := rfl
@[simp] theorem putA_x (v : Byte) (s : State) : (putA v s).x = s.x := rfl
@[simp] theorem putA_y (v : Byte) (s : State) : (putA v s).y = s.y := rfl
@[simp] theorem putA_sp (v : Byte) (s : State) : (putA v s).sp = s.sp := rfl
@[simp] theorem putA_p (v : Byte) (s : State) : (putA v s).p = flagsZN s.p v := rfl
@[simp] theorem putA_pc (v : Byte) (s : State) : (putA v s).pc = s.pc := rfl
@[simp] theorem putA_run (v : Byte) (s : State) : (putA v s).run = s.run := rfl
@[simp] theorem putA_ram (v : Byte) (s : State) : (putA v s).ram = s.ram := rfl
@[simp] theorem putA_apu (v : Byte) (s : State) : (putA v s).apu = s.apu := rfl
@[simp] theorem putA_cycles (v : Byte) (s : State) : (putA v s).cycles = s.cycles := rfl
@[simp] theorem putA_ppu (v : Byte) (s : State) : (putA v s).ppu = s.ppu := rfl
@[simp] theorem putA_cart (v : Byte) (s : State) : (putA v s).cart = s.cart := rfl
@[simp] theorem putA_pad (v : Byte) (s : State) : (putA v s).pad = s.pad := rfl
@[simp] theorem putA_cfg (v : Byte) (s : State) : (putA v s).cfg = s.cfg := rfl
@[simp] theorem putA_frameReplies (v : Byte) (s : State) : (putA v s).frameReplies = s.frameReplies := rfl

@[simp] theorem putX_a (v : Byte) (s : State) : (putX v s).a = s.a := rfl
@[simp] theorem putX_x (v : Byte) (s : State) : (putX v s).x = v := rfl
@[simp] theorem putX_y (v : Byte) (s : State) : (putX v s).y = s.y := rfl
@[simp] theorem putX_sp (v : Byte) (s : State) : (putX v s).sp = s.sp := rfl
@[simp] theorem putX_p (v : Byte) (s : State) : (putX v s).p = flagsZN s.p v := rfl
@[simp] theorem putX_pc (v : Byte) (s : State) : (putX v s).pc = s.pc := rfl
@[simp] theorem putX_run (v : Byte) (s : State) : (putX v s).run = s.run := rfl
@[simp] theorem putX_ram (v : Byte) (s : State) : (putX v s).ram = s.ram := rfl
@[simp] theorem putX_apu (v : Byte) (s : State) : (putX v s).apu = s.apu := rfl
@[simp] theorem putX_cycles (v : Byte) (s : State) : (putX v s).cycles = s.cycles := rfl
@[simp] theorem putX_ppu (v : Byte) (s : State) : (putX v s).ppu = s.ppu := rfl
@[simp] theorem putX_cart (v : Byte) (s : State) : (putX v s).cart = s.cart := rfl
@[simp] theorem putX_pad (v : Byte) (s : State) : (putX v s).pad = s.pad := rfl
@[simp] theorem putX_cfg (v : Byte) (s : State) : (putX v s).cfg = s.cfg := rfl
@[simp] theorem putX_frameReplies (v : Byte) (s : State) : (putX v s).frameReplies = s.frameReplies := rfl

@[simp] theorem putY_a (v : Byte) (s : State) : (putY v s).a = s.a := rfl
@[simp] theorem putY_x (v : Byte) (s : State) : (putY v s).x = s.x := rfl
@[simp] theorem putY_y (v : Byte) (s : State) : (putY v s).y = v := rfl
@[simp] theorem putY_sp (v : Byte) (s : State) : (putY v s).sp = s.sp := rfl
@[simp] theorem putY_p (v : Byte) (s : State) : (putY v s).p = flagsZN s.p v := rfl
@[simp] theorem putY_pc (v : Byte) (s : State) : (putY v s).pc = s.pc := rfl
@[simp] theorem putY_run (v : Byte) (s : State) : (putY v s).run = s.run := rfl
@[simp] theorem putY_ram (v : Byte) (s : State) : (putY v s).ram = s.ram := rfl
@[simp] theorem putY_apu (v : Byte) (s : State) : (putY v s).apu = s.apu := rfl
@[simp] theorem putY_cycles (v : Byte) (s : State) : (putY v s).cycles = s.cycles := rfl
@[simp] theorem putY_ppu (v : Byte) (s : State) : (putY v s).ppu = s.ppu := rfl
@[simp] theorem putY_cart (v : Byte) (s : State) : (putY v s).cart = s.cart := rfl
@[simp] theorem putY_pad (v : Byte) (s : State) : (putY v s).pad = s.pad := rfl
@[simp] theorem putY_cfg (v : Byte) (s : State) : (putY v s).cfg = s.cfg := rfl
@[simp] theorem putY_frameReplies (v : Byte) (s : State) : (putY v s).frameReplies = s.frameReplies := rfl

@[simp] theorem putAX_a (v : Byte) (s : State) : (putAX v s).a = v := rfl
@[simp] theorem putAX_x (v : Byte) (s : State) : (putAX v s).x = v := rfl
@[simp] theorem putAX_y (v : Byte) (s : State) : (putAX v s).y = s.y := rfl
@[simp] theorem putAX_sp (v : Byte) (s : State) : (putAX v s).sp = s.sp := rfl
@[simp] theorem putAX_p (v : Byte) (s : State) : (putAX v s).p = flagsZN s.p v := rfl
@[simp] theorem putAX_pc (v : Byte) (s : State) : (putAX v s).pc = s.pc := rfl
@[simp] theorem putAX_run (v : Byte) (s : State) : (putAX v s).run = s.run := rfl
@[simp] theorem putAX_ram (v : Byte) (s : State) : (putAX v s).ram = s.ram := rfl
@[simp] theorem putAX_apu (v : Byte) (s : State) : (putAX v s).apu = s.apu := rfl
@[simp] theorem putAX_cycles (v : Byte) (s : State) : (putAX v s).cycles = s.cycles := rfl
@[simp] theorem putAX_ppu (v : Byte) (s : State) : (putAX v s).ppu = s.ppu := rfl
@[simp] theorem putAX_cart (v : Byte) (s : State) : (putAX v s).cart = s.cart := rfl
@[simp] theorem putAX_pad (v : Byte) (s : State) : (putAX v s).pad = s.pad := rfl
@[simp] theorem putAX_cfg (v : Byte) (s : State) : (putAX v s).cfg = s.cfg := rfl
@[simp] theorem putAX_frameReplies (v : Byte) (s : State) : (putAX v s).frameReplies = s.frameReplies := rfl

@[simp] theorem addA_a (m : Byte) (s : State) : (addA m s).a = addResult s.a m (getFlag s.p .c) := rfl
@[simp] theorem addA_x (m : Byte) (s : State) : (addA m s).x = s.x := rfl
@[simp] theorem addA_y (m : Byte) (s : State) : (addA m s).y = s.y := rfl
@[simp] theorem addA_sp (m : Byte) (s : State) : (addA m s).sp = s.sp := rfl
@[simp] theorem addA_p (m : Byte) (s : State) : (addA m s).p = flagsAdd s.p s.a m := rfl
@[simp] theorem addA_pc (m : Byte) (s : State) : (addA m s).pc = s.pc := rfl
@[simp] theorem addA_run (m : Byte) (s : State) : (addA m s).run = s.run := rfl
@[simp] theorem addA_ram (m : Byte) (s : State) : (addA m s).ram = s.ram := rfl
@[simp] theorem addA_apu (m : Byte) (s : State) : (addA m s).apu = s.apu := rfl
@[simp] theorem addA_cycles (m : Byte) (s : State) : (addA m s).cycles = s.cycles := rfl
@[simp] theorem addA_ppu (m : Byte) (s : State) : (addA m s).ppu = s.ppu := rfl
@[simp] theorem addA_cart (m : Byte) (s : State) : (addA m s).cart = s.cart := rfl
@[simp] theorem addA_pad (m : Byte) (s : State) : (addA m s).pad = s.pad := rfl
@[simp] theorem addA_cfg (m : Byte) (s : State) : (addA m s).cfg = s.cfg := rfl
@[simp] theorem addA_frameReplies (m : Byte) (s : State) : (addA m s).frameReplies = s.frameReplies := rfl

@[simp] theorem compareWith_a (reg : State → Byte) (m : Byte) (s : State) : (compareWith reg m s).a = s.a := rfl
@[simp] theorem compareWith_x (reg : State → Byte) (m : Byte) (s : State) : (compareWith reg m s).x = s.x := rfl
@[simp] theorem compareWith_y (reg : State → Byte) (m : Byte) (s : State) : (compareWith reg m s).y = s.y := rfl
@[simp] theorem compareWith_sp (reg : State → Byte) (m : Byte) (s : State) : (compareWith reg m s).sp = s.sp := rfl
@[simp] theorem compareWith_p (reg : State → Byte) (m : Byte) (s : State) : (compareWith reg m s).p = flagsCompare s.p (reg s) m := rfl
@[simp] theorem compareWith_pc (reg : State → Byte) (m : Byte) (s : State) : (compareWith reg m s).pc = s.pc := rfl
@[simp] theorem compareWith_run (reg : State → Byte) (m : Byte) (s : State) : (compareWith reg m s).run = s.run := rfl
@[simp] theorem compareWith_ram (reg : State → Byte) (m : Byte) (s : State) : (compareWith reg m s).ram = s.ram := rfl
@[simp] theorem compareWith_apu (reg : State → Byte) (m : Byte) (s : State) : (compareWith reg m s).apu = s.apu := rfl
@[simp] theorem compareWith_cycles (reg : State → Byte) (m : Byte) (s : State) : (compareWith reg m s).cycles = s.cycles := rfl
@[simp] theorem compareWith_ppu (reg : State → Byte) (m : Byte) (s : State) : (compareWith reg m s).ppu = s.ppu := rfl
@[simp] theorem compareWith_cart (reg : State → Byte) (m : Byte) (s : State) : (compareWith reg m s).cart = s.cart := rfl
@[simp] theorem compareWith_pad (reg : State → Byte) (m : Byte) (s : State) : (compareWith reg m s).pad = s.pad := rfl
@[simp] theorem compareWith_cfg (reg : State → Byte) (m : Byte) (s : State) : (compareWith reg m s).cfg = s.cfg := rfl
@[simp] theorem compareWith_frameReplies (reg : State → Byte) (m : Byte) (s : State) : (compareWith reg m s).frameReplies = s.frameReplies := rfl

@[simp] theorem shiftFlags_a (r : Byte) (c : Bool) (s : State) : (shiftFlags r c s).a = s.a := rfl
@[simp] theorem shiftFlags_x (r : Byte) (c : Bool) (s : State) : (shiftFlags r c s).x = s.x := rfl
@[simp] theorem shiftFlags_y (r : Byte) (c : Bool) (s : State) : (shiftFlags r c s).y = s.y := rfl
@[simp] theorem shiftFlags_sp (r : Byte) (c : Bool) (s : State) : (shiftFlags r c s).sp = s.sp := rfl
@[simp] theorem shiftFlags_p (r : Byte) (c : Bool) (s : State) : (shiftFlags r c s).p = flagsZN (setFlag s.p .c c) r := rfl
@[simp] theorem shiftFlags_pc (r : Byte) (c : Bool) (s : State) : (shiftFlags r c s).pc = s.pc := rfl
@[simp] theorem shiftFlags_run (r : Byte) (c : Bool) (s : State) : (shiftFlags r c s).run = s.run := rfl
@[simp] theorem shiftFlags_ram (r : Byte) (c : Bool) (s : State) : (shiftFlags r c s).ram = s.ram := rfl
@[simp] theorem shiftFlags_apu (r : Byte) (c : Bool) (s : State) : (shiftFlags r c s).apu = s.apu := rfl
@[simp] theorem shiftFlags_cycles (r : Byte) (c : Bool) (s : State) : (shiftFlags r c s).cycles = s.cycles := rfl
@[simp] theorem shiftFlags_ppu (r : Byte) (c : Bool) (s : State) : (shiftFlags r c s).ppu = s.ppu := rfl
@[simp] theorem shiftFlags_cart (r : Byte) (c : Bool) (s : State) : (shiftFlags r c s).cart = s.cart := rfl
@[simp] theorem shiftFlags_pad (r : Byte) (c : Bool) (s : State) : (shiftFlags r c s).pad = s.pad := rfl
@[simp] theorem shiftFlags_cfg (r : Byte) (c : Bool) (s : State) : (shiftFlags r c s).cfg = s.cfg := rfl
@[simp] theorem shiftFlags_frameReplies (r : Byte) (c : Bool) (s : State) : (shiftFlags r c s).frameReplies = s.frameReplies := rfl

@[simp] theorem clock_a (n : Nat) (s : State) : (clock n s).a = s.a := rfl
@[simp] theorem clock_x (n : Nat) (s : State) : (clock n s).x = s.x := rfl
@[simp] theorem clock_y (n : Nat) (s : State) : (clock n s).y = s.y := rfl
@[simp] theorem clock_sp (n : Nat) (s : State) : (clock n s).sp = s.sp := rfl
@[simp] theorem clock_p (n : Nat) (s : State) : (clock n s).p = s.p := rfl
@[simp] theorem clock_pc (n : Nat) (s : State) : (clock n s).pc = s.pc := rfl
@[simp] theorem clock_run (n : Nat) (s : State) : (clock n s).run = s.run := rfl
@[simp] theorem clock_ram (n : Nat) (s : State) : (clock n s).ram = s.ram := rfl
@[simp] theorem clock_apu (n : Nat) (s : State) : (clock n s).apu = s.apu := rfl
@[simp] theorem clock_cycles (n : Nat) (s : State) : (clock n s).cycles = s.cycles + n := rfl
@[simp] theorem clock_ppu (n : Nat) (s : State) : (clock n s).ppu = ppuTick (3 * n) s.ppu := rfl
@[simp] theorem clock_cart (n : Nat) (s : State) : (clock n s).cart = s.cart := rfl
@[simp] theorem clock_pad (n : Nat) (s : State) : (clock n s).pad = s.pad := rfl
@[simp] theorem clock_cfg (n : Nat) (s : State) : (clock n s).cfg = s.cfg := rfl
@[simp] theorem clock_frameReplies (n : Nat) (s : State) : (clock n s).frameReplies = s.frameReplies := rfl

@[simp] theorem consumeNmi_a (s : State) : (consumeNmi s).a = s.a := rfl
@[simp] theorem consumeNmi_x (s : State) : (consumeNmi s).x = s.x := rfl
@[simp] theorem consumeNmi_y (s : State) : (consumeNmi s).y = s.y := rfl
@[simp] theorem consumeNmi_sp (s : State) : (consumeNmi s).sp = s.sp := rfl
@[simp] theorem consumeNmi_p (s : State) : (consumeNmi s).p = s.p := rfl
@[simp] theorem consumeNmi_pc (s : State) : (consumeNmi s).pc = s.pc := rfl
@[simp] theorem consumeNmi_run (s : State) : (consumeNmi s).run = s.run := rfl
@[simp] theorem consumeNmi_ram (s : State) : (consumeNmi s).ram = s.ram := rfl
@[simp] theorem consumeNmi_apu (s : State) : (consumeNmi s).apu = s.apu := rfl
@[simp] theorem consumeNmi_cycles (s : State) : (consumeNmi s).cycles = s.cycles := rfl
@[simp] theorem consumeNmi_ppu (s : State) : (consumeNmi s).ppu = { s.ppu with nmi := .inactive } := rfl
@[simp] theorem consumeNmi_cart (s : State) : (consumeNmi s).cart = s.cart := rfl
@[simp] theorem consumeNmi_pad (s : State) : (consumeNmi s).pad = s.pad := rfl
@[simp] theorem consumeNmi_cfg (s : State) : (consumeNmi s).cfg = s.cfg := rfl
@[simp] theorem consumeNmi_frameReplies (s : State) : (consumeNmi s).frameReplies = s.frameReplies := rfl

/-! ### The kinds of step -/

/-- A running machine with no NMI pending steps as the instruction at PC. -/
theorem step_instruction {s : State} (hr : s.run = .running) (hn : s.ppu.nmi = .inactive) :
    step s = instructionStep s := by
  simp [step, iteration, stepKind, hr, hn]

/-- A running machine with an NMI pending takes it. -/
theorem step_nmi {s : State} (hr : s.run = .running) (hn : s.ppu.nmi = .active) :
    step s = outcome (nmiEntry (consumeNmi s)) := by
  simp [step, iteration, stepKind, hr, hn]

/-- A machine that is not running. -/
theorem step_idle {s : State} (hr : s.run ≠ .running) : step s = idleStep s := by
  cases h : s.run <;> simp_all [step, iteration, stepKind]

/-- The bytes the hook's `Peek` gives have no effect on the step. -/
theorem iteration_outcome (draws : Nat → Byte) (s : State) : (iteration draws s).2 = step s := by
  unfold step iteration; cases stepKind s <;> rfl

/-- The reset state's storages have the canonical form. -/
theorem reset_wf : Memory.wf State.reset.ram = true ∧ Memory.wf State.reset.apu = true ∧
    Memory.wf State.reset.ppu.vram = true ∧ Memory.wf State.reset.ppu.palette = true ∧
    Memory.wf State.reset.ppu.oam = true ∧ Memory.wf State.reset.cart.prg.bytes = true ∧
    Memory.wf State.reset.cart.chr.bytes = true := ⟨rfl, rfl, rfl, rfl, rfl, rfl, rfl⟩

end Sys2Proof.Machine
end

