-- ==== Sys2Proof/Laws/Ops.lean ====
section
/-! SUPPORT. What the shared operations do: the bus decoder, reads and writes, the tick, and what holds of a tick's
state. -/

namespace Sys2Proof.Machine

/-- A chain of operations answers exactly when its first does and the rest does from there. -/
theorem bind_eq_ok {α β : Type} {x : Except Fault α} {f : α → Except Fault β} {b : β} :
    (x >>= f) = .ok b ↔ ∃ a, x = .ok a ∧ f a = .ok b := by
  cases x with
  | error e => simp [bind, Except.bind]
  | ok a => simp [bind, Except.bind]

@[simp] theorem ok_bind {α β : Type} (a : α) (f : α → Except Fault β) : ((Except.ok a : Except Fault α) >>= f) = f a := rfl

/-- The bus decoder's RAM offsets. -/
theorem regionOf_ram_lt {a : Word} {k : Nat} (h : regionOf a = .ram k) : k < 2048 := by
  unfold regionOf at h
  simp only at h
  split at h <;> [skip; (repeat' split at h) <;> simp at h]
  simp at h; omega

/-- The bus decoder's APU addresses. -/
theorem regionOf_apu {a : Word} {n : Nat} (h : regionOf a = .apu n) : apuAddress n = true := by
  unfold regionOf at h
  simp only at h
  repeat' split at h
  all_goals simp at h
  subst h
  simp [apuAddress]
  omega

/-- The zero page is RAM. -/
theorem regionOf_zext16 (z : Byte) : regionOf (zext16 z) = .ram z.toNat := by
  have hz := z.isLt
  have h : (zext16 z).toNat = z.toNat := by simp [zext16]; omega
  unfold regionOf
  simp only [h]
  rw [if_pos (by omega), Nat.mod_eq_of_lt (by omega)]

/-- The stack page is RAM. -/
theorem regionOf_stackAddr (sp : Byte) : regionOf (stackAddr sp) = .ram (256 + sp.toNat) := by
  have hz := sp.isLt
  have h : (stackAddr sp).toNat = 256 + sp.toNat := by
    have h1 : ((0x0100 : Word)).toNat = 256 := rfl
    rw [stackAddr, zext16, BitVec.toNat_add, BitVec.toNat_setWidth, h1]
    omega
  unfold regionOf
  simp only [h]
  rw [if_pos (by omega), Nat.mod_eq_of_lt (by omega)]

/-- A plain read gives its byte and changes nothing. -/
theorem memRead_plain {s : State} {a : Word} {v : Byte} (h : plainByte s a = some v) : memRead s a = .ok (v, s) := by
  unfold plainByte at h
  unfold memRead
  cases hr : regionOf a <;> simp_all

/-- Where PC stands does not matter to a read. -/
theorem memRead_withPc (s : State) (w : Word) (a : Word) :
    memRead { s with pc := w } a = (memRead s a).map fun r => (r.1, { r.2 with pc := w }) := by
  unfold memRead apuRead
  cases regionOf a <;> try rfl
  simp only
  cases portRead s.cfg s.cart s.ppu a <;> rfl

/-- A read that answers changes at most the PPU and the joypad, and nothing at all where the address is plain. -/
theorem memRead_frame {s t : State} {a : Word} {v : Byte} (h : memRead s a = .ok (v, t)) :
    t = { s with ppu := t.ppu, pad := t.pad } ∧ (∀ w, plainByte s a = some w → v = w ∧ t = s) := by
  unfold memRead at h
  unfold plainByte
  cases hr : regionOf a <;> simp only [hr] at h
  case port => split at h <;> simp_all
               obtain ⟨_, rfl⟩ := h; rfl
  all_goals simp at h
  all_goals obtain ⟨rfl, rfl⟩ := h; simp

theorem memRead_zext16 (s : State) (z : Byte) : memRead s (zext16 z) = .ok (Memory.read s.ram z.toNat, s) := by
  simp [memRead, regionOf_zext16]

theorem read16Zp_eq (s : State) (z : Byte) : read16Zp s z = .ok (zpWord s z, s) := by
  simp [read16Zp, memRead_zext16, zpWord]

/-- A plain read is not disturbed by anything but the storages it reads. -/
theorem plainByte_congr {s t : State} (hr : t.ram = s.ram) (ha : t.apu = s.apu) (hc : t.cart = s.cart)
    (hf : t.cfg = s.cfg) (b : Word) : plainByte t b = plainByte s b := by
  unfold plainByte apuRead
  rw [hr, ha, hc, hf]

/-! ### The tick -/

/-- A PPU that differs from another at most in what its clock writes: status, scanline, cycle, interrupt signal
(50_ppu R319 to R323). -/
def OnlyClock (u v : Ppu) : Prop :=
  v = { u with status := v.status, scanline := v.scanline, cycle := v.cycle, nmi := v.nmi }

theorem OnlyClock.refl (u : Ppu) : OnlyClock u u := rfl

theorem OnlyClock.trans {u v w : Ppu} (h : OnlyClock u v) (h' : OnlyClock v w) : OnlyClock u w := by
  unfold OnlyClock at *
  rw [h']; rw [h]

theorem spriteZeroTest_onlyClock (u : Ppu) : OnlyClock u (spriteZeroTest u) := by
  unfold spriteZeroTest; split <;> rfl

theorem nextScanline_onlyClock (u : Ppu) : OnlyClock u (nextScanline u) := by
  simp only [nextScanline, vblankStart, raiseNmi, frameWrap]
  repeat' split
  all_goals rfl

theorem scanlineLoop_onlyClock (k : Nat) (u : Ppu) : OnlyClock u (scanlineLoop k u) := by
  induction k generalizing u with
  | zero => rfl
  | succ k ih =>
    simp only [scanlineLoop]
    split
    · exact (nextScanline_onlyClock u).trans (ih _)
    · rfl

/-- The PPU's tick writes status, scanline, cycle and the interrupt signal, and nothing else. -/
theorem ppuTick_onlyClock (n : Nat) (u : Ppu) : OnlyClock u (ppuTick n u) := by
  have h1 : OnlyClock u { u with cycle := u.cycle + n } := rfl
  exact (h1.trans (spriteZeroTest_onlyClock _)).trans (scanlineLoop_onlyClock _ _)

/-- What bus ticks can change: the cycle count, the PPU's clock, the coming frame replies and the buttons. -/
def TickFrame (s t : State) : Prop :=
  t = { s with cycles := t.cycles, ppu := t.ppu, pad := t.pad, frameReplies := t.frameReplies } ∧
    OnlyClock s.ppu t.ppu ∧ t.pad = { s.pad with buttons := t.pad.buttons } ∧
    s.cycles ≤ t.cycles ∧ t.frameReplies <:+ s.frameReplies

theorem TickFrame.refl (s : State) : TickFrame s s :=
  ⟨rfl, OnlyClock.refl _, rfl, le_refl _, List.suffix_refl _⟩

theorem TickFrame.trans {s t w : State} (h : TickFrame s t) (h' : TickFrame t w) : TickFrame s w := by
  obtain ⟨h1, h2, h3, h4, h5⟩ := h
  obtain ⟨g1, g2, g3, g4, g5⟩ := h'
  refine ⟨?_, h2.trans g2, ?_, le_trans h4 g4, g5.trans h5⟩
  · rw [g1]; rw [h1]
  · rw [g3]; rw [h3]

/-- What the frame callback can do: take a reply off the list and write the buttons, or raise. -/
theorem hostFrame_spec {s t : State} (h : hostFrame s = .ok t) :
    t = { s with pad := t.pad, frameReplies := t.frameReplies } ∧ t.pad = { s.pad with buttons := t.pad.buttons } ∧
      t.frameReplies <:+ s.frameReplies := by
  unfold hostFrame at h
  cases hr : s.frameReplies with
  | nil => simp [hr] at h; subst h; exact ⟨rfl, rfl, by simp [hr]⟩
  | cons r rs =>
    cases r with
    | failure w => simp [hr] at h
    | success b =>
      cases b <;> simp [hr] at h <;> subst h <;> exact ⟨rfl, rfl, List.suffix_cons _ _⟩

/-- What a tick can do (20_memory R100). -/
theorem busTick_spec {s t : State} {n : Nat} (h : busTick s n = .ok t) :
    TickFrame s t ∧ t.cycles = s.cycles + n ∧ t.ppu = ppuTick (3 * n) s.ppu := by
  have hc : TickFrame s (clock n s) :=
    ⟨rfl, ppuTick_onlyClock _ _, rfl, by simp, List.suffix_refl _⟩
  unfold busTick at h
  split at h
  · obtain ⟨h1, h2, h3⟩ := hostFrame_spec h
    have e1 : t.cycles = (clock n s).cycles := by rw [h1]
    have e2 : t.ppu = (clock n s).ppu := by rw [h1]
    have : TickFrame (clock n s) t :=
      ⟨by rw [h1], e2 ▸ OnlyClock.refl _, h2, le_of_eq e1.symm, h3⟩
    exact ⟨hc.trans this, e1, e2⟩
  · simp at h; subst h; exact ⟨hc, rfl, rfl⟩

/-- Where PC stands does not matter to the frame callback. -/
theorem hostFrame_withPc (s : State) (w : Word) :
    hostFrame { s with pc := w } = (hostFrame s).map fun t => { t with pc := w } := by
  obtain ⟨a, x, y, sp, p, pc, run, ram, apu, cycles, ppu, cart, pad, cfg, replies⟩ := s
  cases replies with
  | nil => rfl
  | cons r _ =>
    cases r with
    | failure _ => rfl
    | success b => cases b <;> rfl

/-- Where PC stands does not matter to a tick. -/
theorem busTick_withPc (s : State) (w : Word) (n : Nat) :
    busTick { s with pc := w } n = (busTick s n).map fun t => { t with pc := w } := by
  unfold busTick
  rw [show clock n { s with pc := w } = { clock n s with pc := w } from rfl, hostFrame_withPc]
  split <;> rfl

theorem hostSucceeds_of_suffix {s t : State} (h : t.frameReplies <:+ s.frameReplies) (hs : HostSucceeds s) :
    HostSucceeds t := by
  unfold HostSucceeds at *
  rw [List.all_eq_true] at *
  exact fun r hr => hs r (h.subset hr)

/-- A tick answers unless a frame callback fails. -/
theorem busTick_total {s : State} (hs : HostSucceeds s) (n : Nat) : ∃ t, busTick s n = .ok t := by
  unfold busTick
  split
  · have hs' : HostSucceeds (clock n s) := hs
    unfold hostFrame
    cases hr : (clock n s).frameReplies with
    | nil => exact ⟨_, rfl⟩
    | cons r rs =>
      cases r with
      | success b => cases b <;> exact ⟨_, rfl⟩
      | failure w =>
        unfold HostSucceeds at hs'
        rw [hr] at hs'
        simp [FrameReply.isSuccess] at hs'
  · exact ⟨_, rfl⟩

/-- Without a pending rise of the interrupt signal a tick is only the clock. -/
theorem busTick_quiet {s : State} {n : Nat} (h : ¬ (s.ppu.nmi = .inactive ∧ (clock n s).ppu.nmi = .active)) :
    busTick s n = .ok (clock n s) := by
  unfold busTick; rw [if_neg h]

theorem TickFrame.succeeds {s t : State} (h : TickFrame s t) (hs : HostSucceeds s) : HostSucceeds t :=
  hostSucceeds_of_suffix h.2.2.2.2 hs

theorem TickFrame.plain {s t : State} (h : TickFrame s t) (b : Word) : plainByte t b = plainByte s b := by
  obtain ⟨h1, -⟩ := h
  rw [h1]; rfl

/-! ### The stack -/

/-- A push: the byte at `0x0100 + SP`, then SP less one (20_memory R75). -/
theorem push_eq (s : State) (v : Byte) :
    push s v = .ok { s with ram := Memory.write s.ram (256 + s.sp.toNat) v, sp := s.sp - 1 } := by
  simp [push, memWrite, regionOf_stackAddr]

/-- A pop: SP plus one, then the byte at `0x0100 + SP` (20_memory R76). -/
theorem pop_eq (s : State) :
    pop s = .ok (Memory.read s.ram (256 + (s.sp + 1).toNat), { s with sp := s.sp + 1 }) := by
  simp [pop, memRead, regionOf_stackAddr]

theorem push16_eq (s : State) (w : Word) :
    push16 s w = .ok { s with
      ram := Memory.write (Memory.write s.ram (256 + s.sp.toNat) (hiByte w)) (256 + (s.sp - 1).toNat) (loByte w)
      sp := s.sp - 1 - 1 } := by
  simp [push16, push_eq]

theorem pop16_eq (s : State) :
    pop16 s = .ok (word16 (Memory.read s.ram (256 + (s.sp + 1 + 1).toNat)) (Memory.read s.ram (256 + (s.sp + 1).toNat)),
      { s with sp := s.sp + 1 + 1 }) := by
  simp [pop16, pop_eq]

end Sys2Proof.Machine
end

