-- ==== Sys2Proof/Laws/Closure.lean ====
section
/-! SUPPORT. Said once: what a step is made of. A predicate that every elementary change keeps (`StepClosed`) is kept
by every shared operation, every meaning and every step. Each invariant is then a check of the elementary changes. -/

namespace Sys2Proof.Machine

/-- The stored Break bits of a status byte. -/
def breakOk (p : Byte) : Prop := getFlag p .b = false ∧ getFlag p .b2 = true

/-- The predicate is kept by every elementary change a step is made of. -/
structure StepClosed (I : State → Prop) : Prop where
  regs : ∀ (s : State) (a x y sp : Byte) (pc : Word), I s → I { s with a := a, x := x, y := y, sp := sp, pc := pc }
  status : ∀ (s : State) (q : Byte), I s → (breakOk s.p → breakOk q) → I { s with p := q }
  run : ∀ (s : State) (r : RunState), I s → I { s with run := r }
  ram : ∀ (s : State) (k : Nat) (v : Byte), k < 2048 → I s → I { s with ram := Memory.write s.ram k v }
  apu : ∀ (s : State) (n : Nat) (v : Byte), apuAddress n = true → I s → I { s with apu := Memory.write s.apu n v }
  portRead : ∀ (s : State) (a : Word) (v : Byte) (u : Ppu),
    I s → portRead s.cfg s.cart s.ppu a = .ok (v, u) → I { s with ppu := u }
  portWrite : ∀ (s : State) (a : Word) (v : Byte) (u : Ppu),
    I s → portWrite s.cfg s.ppu a v = .ok u → I { s with ppu := u }
  padRead : ∀ s : State, I s → I { s with pad := (padRead s.pad).2 }
  padWrite : ∀ (s : State) (v : Byte), I s → I { s with pad := padWrite v s.pad }
  oam : ∀ (s : State) (data : List Byte), I s → I { s with ppu := oamWriteAll data s.ppu }
  clock : ∀ (s : State) (n : Nat), I s → I (clock n s)
  frame : ∀ s t : State, I s → hostFrame s = .ok t → I t
  consume : ∀ s : State, I s → I (consumeNmi s)

variable {I : State → Prop}

theorem StepClosed.pc (C : StepClosed I) {s : State} (w : Word) (h : I s) : I { s with pc := w } :=
  C.regs s s.a s.x s.y s.sp w h

theorem StepClosed.sp (C : StepClosed I) {s : State} (v : Byte) (h : I s) : I { s with sp := v } :=
  C.regs s s.a s.x s.y v s.pc h

theorem StepClosed.memRead (C : StepClosed I) {s t : State} {a : Word} {v : Byte} (h : I s)
    (e : memRead s a = .ok (v, t)) : I t := by
  unfold Machine.memRead at e
  cases hr : regionOf a <;> simp only [hr] at e
  case port =>
    split at e
    · rename_i w u hp
      simp at e; obtain ⟨rfl, rfl⟩ := e
      exact C.portRead s a _ u h hp
    · simp at e
  case joypad => simp at e; obtain ⟨-, rfl⟩ := e; exact C.padRead s h
  case oamDma => simp at e
  all_goals simp at e; obtain ⟨-, rfl⟩ := e; exact h

theorem StepClosed.busTick (C : StepClosed I) {s t : State} {n : Nat} (h : I s) (e : busTick s n = .ok t) : I t := by
  unfold Machine.busTick at e
  split at e
  · exact C.frame _ t (C.clock s n h) e
  · simp at e; subst e; exact C.clock s n h

theorem StepClosed.readRun (C : StepClosed I) {k : Nat} {a : Word} {s t : State} {bs : List Byte} (h : I s)
    (e : readRun k a s = .ok (bs, t)) : I t := by
  induction k generalizing a s t bs with
  | zero => simp [Machine.readRun] at e; exact e.2 ▸ h
  | succ k ih =>
    simp only [Machine.readRun, bind_eq_ok] at e
    obtain ⟨⟨v, s1⟩, e1, ⟨vs, s2⟩, e2, e3⟩ := e
    simp at e3; obtain ⟨-, rfl⟩ := e3
    exact ih (C.memRead h e1) e2

theorem StepClosed.memWrite (C : StepClosed I) {s t : State} {a : Word} {v : Byte} (h : I s)
    (e : memWrite s a v = .ok t) : I t := by
  unfold Machine.memWrite at e
  cases hr : regionOf a <;> simp only [hr] at e
  case ram k => simp at e; subst e; exact C.ram s k v (regionOf_ram_lt hr) h
  case port =>
    split at e
    · rename_i u hp; simp at e; subst e; exact C.portWrite s a v u h hp
    · simp at e
  case oamDma =>
    simp only [oamDma, bind_eq_ok] at e
    obtain ⟨⟨bs, s1⟩, e1, e2⟩ := e
    have h1 := C.oam s1 bs (C.readRun h e1)
    simp only at e2
    split at e2
    · exact C.busTick h1 e2
    · simp at e2; subst e2; exact h1
  case joypad => simp at e; subst e; exact C.padWrite s v h
  case apu n => simp at e; subst e; exact C.apu s n v (regionOf_apu hr) h
  case unmapped => simp at e; subst e; exact h
  case prg n => simp at e

theorem StepClosed.read16 (C : StepClosed I) {s t : State} {a w : Word} (h : I s) (e : read16 s a = .ok (w, t)) :
    I t := by
  simp only [Machine.read16, bind_eq_ok] at e
  obtain ⟨⟨v, s1⟩, e1, ⟨v2, s2⟩, e2, e3⟩ := e
  simp at e3; obtain ⟨-, rfl⟩ := e3
  exact C.memRead (C.memRead h e1) e2

theorem StepClosed.push (C : StepClosed I) {s t : State} {v : Byte} (h : I s) (e : push s v = .ok t) : I t := by
  rw [push_eq] at e; simp at e; subst e
  have := s.sp.isLt
  exact C.sp (s := { s with ram := _ }) _ (C.ram s _ v (by omega) h)

theorem StepClosed.push16 (C : StepClosed I) {s t : State} {w : Word} (h : I s) (e : push16 s w = .ok t) : I t := by
  simp only [Machine.push16, bind_eq_ok] at e
  obtain ⟨s1, e1, e2⟩ := e
  exact C.push (C.push h e1) e2

theorem StepClosed.pop (C : StepClosed I) {s t : State} {v : Byte} (h : I s) (e : pop s = .ok (v, t)) : I t := by
  rw [pop_eq] at e; simp at e; obtain ⟨-, rfl⟩ := e; exact C.sp _ h

theorem StepClosed.pop16 (C : StepClosed I) {s t : State} {w : Word} (h : I s) (e : pop16 s = .ok (w, t)) : I t := by
  rw [pop16_eq] at e; simp at e; obtain ⟨-, rfl⟩ := e; exact C.sp _ h

/-- A flag other than B and B2 leaves the Break bits. -/
theorem breakOk_setFlag {p : Byte} {f : Flag} {b : Bool} (hf : f ≠ .b) (hf2 : f ≠ .b2) (h : breakOk p) :
    breakOk (setFlag p f b) := by
  simpa [breakOk, hf, hf2] using h

theorem breakOk_flagsZN {p v : Byte} (h : breakOk p) : breakOk (flagsZN p v) := by simpa [breakOk] using h

theorem breakOk_flagsAdd {p a m : Byte} (h : breakOk p) : breakOk (flagsAdd p a m) := by simpa [breakOk] using h

theorem breakOk_flagsCompare {p r m : Byte} (h : breakOk p) : breakOk (flagsCompare p r m) := by
  simpa [breakOk] using h

theorem breakOk_flagsBit {p a m : Byte} (h : breakOk p) : breakOk (flagsBit p a m) := by simpa [breakOk] using h

theorem breakOk_pulledStatus (v : Byte) : breakOk (pulledStatus v) := by simp [breakOk]

theorem StepClosed.nmiEntry (C : StepClosed I) {s t : State} (h : I s) (e : nmiEntry s = .ok t) : I t := by
  simp only [Machine.nmiEntry, bind_eq_ok] at e
  obtain ⟨s1, e1, s2, e2, ⟨w, s3⟩, e3, e4⟩ := e
  have h2 := C.push (C.push16 h e1) e2
  have h3 := C.read16 (C.status s2 (setFlag s2.p .i true) h2 (breakOk_setFlag (by simp) (by simp))) e3
  exact C.busTick (C.pc w h3) e4

theorem StepClosed.returnFromInterrupt (C : StepClosed I) {s t : State} (h : I s)
    (e : returnFromInterrupt s = .ok t) : I t := by
  simp only [Machine.returnFromInterrupt, bind_eq_ok] at e
  obtain ⟨⟨v, s1⟩, e1, ⟨w, s2⟩, e2, e3⟩ := e
  simp at e3; subst e3
  exact C.pc w (C.pop16 (C.status s1 _ (C.pop h e1) fun _ => breakOk_pulledStatus v) e2)

/-! ### Instructions -/

theorem StepClosed.address (C : StepClosed I) {o : Operand} {s t : State} {pl : Place} {c : Bool} (h : I s)
    (e : address o s = .ok (pl, c, t)) : I t := by
  cases o <;> simp only [Machine.address, indexed, read16Zp_eq, ok_bind] at e
  case ind a =>
    simp only [bind_eq_ok] at e
    obtain ⟨⟨v, s1⟩, e1, ⟨v2, s2⟩, e2, e3⟩ := e
    simp at e3; obtain ⟨-, -, rfl⟩ := e3
    exact C.memRead (C.memRead h e1) e2
  all_goals simp at e; obtain ⟨-, -, rfl⟩ := e; exact h

theorem StepClosed.pageCrossTick (C : StepClosed I) {op : Byte} {c : Bool} {s t : State} (h : I s)
    (e : pageCrossTick op c s = .ok t) : I t := by
  unfold Machine.pageCrossTick at e
  split at e
  · exact C.busTick h e
  · simp at e; exact e ▸ h

theorem StepClosed.loadPlace (C : StepClosed I) {pl : Place} {s t : State} {v : Byte} (h : I s)
    (e : loadPlace pl s = .ok (v, t)) : I t := by
  cases pl <;> simp only [Machine.loadPlace] at e
  case mem a => exact C.memRead h e
  all_goals simp at e; obtain ⟨-, rfl⟩ := e; exact h

theorem StepClosed.storePlace (C : StepClosed I) {pl : Place} {s t : State} {v : Byte} (h : I s)
    (e : storePlace pl v s = .ok t) : I t := by
  cases pl <;> simp only [Machine.storePlace] at e
  case mem a => exact C.memWrite h e
  case acc => simp at e; subst e; exact C.regs s v s.x s.y s.sp s.pc h
  all_goals simp at e; exact e ▸ h

/-- A handler keeps the predicate. -/
def HandlerKeeps (I : State → Prop) (f : Place → State → Except Fault State) : Prop :=
  ∀ pl s t, I s → f pl s = .ok t → I t

/-- A state change keeps the predicate. -/
def Keeps (I : State → Prop) (f : State → State) : Prop := ∀ s, I s → I (f s)

theorem StepClosed.runRow (C : StepClosed I) {op : Byte} {o : Operand} {f : Place → State → Except Fault State}
    (hf : HandlerKeeps I f) {s t : State} (h : I s) (e : runRow op o f s = .ok t) : I t := by
  simp only [Machine.runRow, bind_eq_ok] at e
  obtain ⟨⟨pl, c, s0⟩, e0, s1, e1, s2, e2, s3, e3, e4⟩ := e
  have h3 := C.busTick (hf _ _ _ (C.pageCrossTick (C.address h e0) e1) e2) e3
  simp at e4; subst e4
  unfold advancePc
  split
  · exact C.pc _ h3
  · exact h3

theorem StepClosed.perform (C : StepClosed I) {i : Instr} {f : Place → State → Except Fault State}
    (hf : HandlerKeeps I f) {s t : State} (h : I s) (e : perform i f s = .next t) : I t := by
  unfold Machine.perform at e
  split at e
  · cases hr : Machine.runRow _ i.operand f s with
    | ok w => rw [hr] at e; simp [outcome] at e; exact e ▸ C.runRow hf h hr
    | error x => rw [hr] at e; simp [outcome] at e
  · simp at e

theorem StepClosed.reading (C : StepClosed I) {f : Byte → State → State} (hf : ∀ v, Keeps I (f v)) :
    HandlerKeeps I (reading f) := by
  intro pl s t h e
  simp only [Machine.reading, bind_eq_ok] at e
  obtain ⟨⟨v, s1⟩, e1, e2⟩ := e
  simp at e2; subst e2
  exact hf v s1 (C.loadPlace h e1)

theorem StepClosed.storing (C : StepClosed I) (f : State → Byte) : HandlerKeeps I (storing f) :=
  fun _ _ _ h e => C.storePlace h e

theorem pure1_keeps {f : State → State} (hf : Keeps I f) : HandlerKeeps I (pure1 f) := by
  intro pl s t h e
  simp [pure1] at e; exact e ▸ hf s h

theorem StepClosed.modifying (C : StepClosed I) {f : Byte → Bool → Byte × Bool} {g : Byte → Bool → State → State}
    (hg : ∀ v c, Keeps I (g v c)) : HandlerKeeps I (modifying f g) := by
  intro pl s t h e
  simp only [Machine.modifying, bind_eq_ok] at e
  obtain ⟨⟨v, s1⟩, e1, s2, e2, e3⟩ := e
  simp at e3; subst e3
  exact hg _ _ s2 (C.storePlace (C.loadPlace h e1) e2)

theorem StepClosed.setZN (C : StepClosed I) (v : Byte) : Keeps I (setZN v) :=
  fun s h => C.status s _ h breakOk_flagsZN

theorem StepClosed.putA (C : StepClosed I) (v : Byte) : Keeps I (putA v) :=
  fun s h => C.setZN v _ (C.regs s v s.x s.y s.sp s.pc h)

theorem StepClosed.putX (C : StepClosed I) (v : Byte) : Keeps I (putX v) :=
  fun s h => C.setZN v _ (C.regs s s.a v s.y s.sp s.pc h)

theorem StepClosed.putY (C : StepClosed I) (v : Byte) : Keeps I (putY v) :=
  fun s h => C.setZN v _ (C.regs s s.a s.x v s.sp s.pc h)

theorem StepClosed.putAX (C : StepClosed I) (v : Byte) : Keeps I (putAX v) :=
  fun s h => C.setZN v _ (C.regs s v v s.y s.sp s.pc h)

theorem StepClosed.addA (C : StepClosed I) (m : Byte) : Keeps I (addA m) :=
  fun s h => C.status { s with a := addResult s.a m (getFlag s.p .c) } _ (C.regs s _ s.x s.y s.sp s.pc h)
    breakOk_flagsAdd

theorem StepClosed.compareWith (C : StepClosed I) (reg : State → Byte) (m : Byte) : Keeps I (compareWith reg m) :=
  fun s h => C.status s _ h breakOk_flagsCompare

theorem StepClosed.flag (C : StepClosed I) {f : Flag} (b : Bool) (hf : f ≠ .b) (hf2 : f ≠ .b2) :
    Keeps I fun s => { s with p := setFlag s.p f b } :=
  fun s h => C.status s _ h (breakOk_setFlag hf hf2)

theorem StepClosed.shiftFlags (C : StepClosed I) (r : Byte) (c : Bool) : Keeps I (shiftFlags r c) :=
  fun s h => C.status s _ h fun hp => breakOk_flagsZN (breakOk_setFlag (by simp) (by simp) hp)

theorem StepClosed.withCarry (C : StepClosed I) (c : Bool) {f : State → State} (hf : Keeps I f) :
    Keeps I (withCarry c f) :=
  fun s h => hf _ (C.flag c (by simp) (by simp) s h)

theorem StepClosed.branchHandler (C : StepClosed I) (cond : Byte → Bool) (d : Byte) :
    HandlerKeeps I (branchHandler cond d) := by
  intro pl s t h e
  unfold Machine.branchHandler at e
  split at e
  · simp only [bind_eq_ok] at e
    obtain ⟨s1, e1, ⟨v, s2⟩, e2, s3, e3, e4⟩ := e
    have h2 := C.memRead (C.busTick h e1) e2
    simp at e4; subst e4
    refine C.pc _ ?_
    unfold branchCrossTick at e3
    split at e3
    · exact C.busTick h2 e3
    · simp at e3; exact e3 ▸ h2
  · simp at e; exact e ▸ h

theorem StepClosed.jumpHandler (C : StepClosed I) : HandlerKeeps I jumpHandler := by
  intro pl s t h e
  unfold Machine.jumpHandler at e
  split at e <;> simp at e <;> subst e
  · exact C.pc _ h
  · exact h

theorem StepClosed.callHandler (C : StepClosed I) (w : Word) : HandlerKeeps I (callHandler w) := by
  intro pl s t h e
  simp only [Machine.callHandler, bind_eq_ok] at e
  obtain ⟨s1, e1, e2⟩ := e
  simp at e2; subst e2
  exact C.pc _ (C.push16 h e1)

theorem StepClosed.returnHandler (C : StepClosed I) : HandlerKeeps I returnHandler := by
  intro pl s t h e
  simp only [Machine.returnHandler, bind_eq_ok] at e
  obtain ⟨⟨w, s1⟩, e1, e2⟩ := e
  simp at e2; subst e2
  exact C.pc _ (C.pop16 h e1)

theorem StepClosed.pullA (C : StepClosed I) : HandlerKeeps I pullA := by
  intro pl s t h e
  simp only [Machine.pullA, bind_eq_ok] at e
  obtain ⟨⟨v, s1⟩, e1, e2⟩ := e
  simp at e2; subst e2
  exact C.putA v s1 (C.pop h e1)

theorem StepClosed.pullP (C : StepClosed I) : HandlerKeeps I pullP := by
  intro pl s t h e
  simp only [Machine.pullP, bind_eq_ok] at e
  obtain ⟨⟨v, s1⟩, e1, e2⟩ := e
  simp at e2; subst e2
  exact C.status s1 _ (C.pop h e1) fun _ => breakOk_pulledStatus v

theorem StepClosed.discardRead (C : StepClosed I) : HandlerKeeps I discardRead := by
  intro pl s t h e
  simp only [Machine.discardRead, bind_eq_ok] at e
  obtain ⟨⟨v, s1⟩, e1, e2⟩ := e
  simp at e2; subst e2
  exact C.loadPlace h e1

/-- Every instruction keeps what the elementary changes keep. -/
theorem StepClosed.exec (C : StepClosed I) {i : Instr} {s t : State} (h : I s) (e : exec i s = .next t) : I t := by
  cases i with
  | lda o => simp only [Machine.exec, execLda] at e; refine C.perform ?_ h e; exact (C.reading C.putA)
  | ldx o => simp only [Machine.exec, execLdx] at e; refine C.perform ?_ h e; exact (C.reading C.putX)
  | ldy o => simp only [Machine.exec, execLdy] at e; refine C.perform ?_ h e; exact (C.reading C.putY)
  | sta o => simp only [Machine.exec, execSta] at e; refine C.perform ?_ h e; exact (C.storing _)
  | stx o => simp only [Machine.exec, execStx] at e; refine C.perform ?_ h e; exact (C.storing _)
  | sty o => simp only [Machine.exec, execSty] at e; refine C.perform ?_ h e; exact (C.storing _)
  | tax => simp only [Machine.exec, execTax] at e; refine C.perform ?_ h e; exact (pure1_keeps fun s h => C.putX _ s h)
  | tay => simp only [Machine.exec, execTay] at e; refine C.perform ?_ h e; exact (pure1_keeps fun s h => C.putY _ s h)
  | txa => simp only [Machine.exec, execTxa] at e; refine C.perform ?_ h e; exact (pure1_keeps fun s h => C.putA _ s h)
  | tya => simp only [Machine.exec, execTya] at e; refine C.perform ?_ h e; exact (pure1_keeps fun s h => C.putA _ s h)
  | tsx => simp only [Machine.exec, execTsx] at e; refine C.perform ?_ h e; exact (pure1_keeps fun s h => C.putX _ s h)
  | txs => simp only [Machine.exec, execTxs] at e; refine C.perform ?_ h e; exact (pure1_keeps fun s h => C.sp _ h)
  | adc o => simp only [Machine.exec, execAdc] at e; refine C.perform ?_ h e; exact (C.reading C.addA)
  | sbc o => simp only [Machine.exec, execSbc] at e; refine C.perform ?_ h e; exact (C.reading fun v => C.addA _)
  | and o => simp only [Machine.exec, execAnd] at e; refine C.perform ?_ h e; exact (C.reading fun v s h => C.putA _ s h)
  | ora o => simp only [Machine.exec, execOra] at e; refine C.perform ?_ h e; exact (C.reading fun v s h => C.putA _ s h)
  | eor o => simp only [Machine.exec, execEor] at e; refine C.perform ?_ h e; exact (C.reading fun v s h => C.putA _ s h)
  | cmp o => simp only [Machine.exec, execCmp] at e; refine C.perform ?_ h e; exact (C.reading fun v => C.compareWith _ v)
  | cpx o => simp only [Machine.exec, execCpx] at e; refine C.perform ?_ h e; exact (C.reading fun v => C.compareWith _ v)
  | cpy o => simp only [Machine.exec, execCpy] at e; refine C.perform ?_ h e; exact (C.reading fun v => C.compareWith _ v)
  | bit o => simp only [Machine.exec, execBit] at e; refine C.perform ?_ h e; exact (C.reading fun v s h => C.status s _ h breakOk_flagsBit)
  | inc o => simp only [Machine.exec, execInc] at e; refine C.perform ?_ h e; exact (C.modifying fun v _ => C.setZN v)
  | dec o => simp only [Machine.exec, execDec] at e; refine C.perform ?_ h e; exact (C.modifying fun v _ => C.setZN v)
  | inx => simp only [Machine.exec, execInx] at e; refine C.perform ?_ h e; exact (pure1_keeps fun s h => C.putX _ s h)
  | iny => simp only [Machine.exec, execIny] at e; refine C.perform ?_ h e; exact (pure1_keeps fun s h => C.putY _ s h)
  | dex => simp only [Machine.exec, execDex] at e; refine C.perform ?_ h e; exact (pure1_keeps fun s h => C.putX _ s h)
  | dey => simp only [Machine.exec, execDey] at e; refine C.perform ?_ h e; exact (pure1_keeps fun s h => C.putY _ s h)
  | asl o => simp only [Machine.exec, execAsl] at e; refine C.perform ?_ h e; exact (C.modifying C.shiftFlags)
  | lsr o => simp only [Machine.exec, execLsr] at e; refine C.perform ?_ h e; exact (C.modifying C.shiftFlags)
  | rol o => simp only [Machine.exec, execRol] at e; refine C.perform ?_ h e; exact (C.modifying C.shiftFlags)
  | ror o => simp only [Machine.exec, execRor] at e; refine C.perform ?_ h e; exact (C.modifying C.shiftFlags)
  | jmp o => simp only [Machine.exec, execJmp] at e; refine C.perform ?_ h e; exact C.jumpHandler
  | jsr a => simp only [Machine.exec, execJsr] at e; refine C.perform ?_ h e; exact (C.callHandler a)
  | rts => simp only [Machine.exec, execRts] at e; refine C.perform ?_ h e; exact C.returnHandler
  | rti => simp only [Machine.exec, execRti] at e; refine C.perform ?_ h e; exact (fun _ _ _ h e => C.returnFromInterrupt h e)
  | bcc d => simp only [Machine.exec, execBcc] at e; refine C.perform ?_ h e; exact (C.branchHandler _ d)
  | bcs d => simp only [Machine.exec, execBcs] at e; refine C.perform ?_ h e; exact (C.branchHandler _ d)
  | beq d => simp only [Machine.exec, execBeq] at e; refine C.perform ?_ h e; exact (C.branchHandler _ d)
  | bne d => simp only [Machine.exec, execBne] at e; refine C.perform ?_ h e; exact (C.branchHandler _ d)
  | bmi d => simp only [Machine.exec, execBmi] at e; refine C.perform ?_ h e; exact (C.branchHandler _ d)
  | bpl d => simp only [Machine.exec, execBpl] at e; refine C.perform ?_ h e; exact (C.branchHandler _ d)
  | bvc d => simp only [Machine.exec, execBvc] at e; refine C.perform ?_ h e; exact (C.branchHandler _ d)
  | bvs d => simp only [Machine.exec, execBvs] at e; refine C.perform ?_ h e; exact (C.branchHandler _ d)
  | brk => simp [Machine.exec, execBrk] at e; subst e; exact C.run s _ h
  | nop => simp only [Machine.exec, execNop] at e; refine C.perform ?_ h e; exact (pure1_keeps fun _ h => h)
  | pha => simp only [Machine.exec, execPha] at e; refine C.perform ?_ h e; exact (fun _ _ _ h e => C.push h e)
  | pla => simp only [Machine.exec, execPla] at e; refine C.perform ?_ h e; exact C.pullA
  | php => simp only [Machine.exec, execPhp] at e; refine C.perform ?_ h e; exact (fun _ _ _ h e => C.push h e)
  | plp => simp only [Machine.exec, execPlp] at e; refine C.perform ?_ h e; exact C.pullP
  | clc => simp only [Machine.exec, execClc] at e; refine C.perform ?_ h e; exact (pure1_keeps (C.flag _ (by simp) (by simp)))
  | sec => simp only [Machine.exec, execSec] at e; refine C.perform ?_ h e; exact (pure1_keeps (C.flag _ (by simp) (by simp)))
  | cli => simp only [Machine.exec, execCli] at e; refine C.perform ?_ h e; exact (pure1_keeps (C.flag _ (by simp) (by simp)))
  | sei => simp only [Machine.exec, execSei] at e; refine C.perform ?_ h e; exact (pure1_keeps (C.flag _ (by simp) (by simp)))
  | cld => simp only [Machine.exec, execCld] at e; refine C.perform ?_ h e; exact (pure1_keeps (C.flag _ (by simp) (by simp)))
  | sed => simp only [Machine.exec, execSed] at e; refine C.perform ?_ h e; exact (pure1_keeps (C.flag _ (by simp) (by simp)))
  | clv => simp only [Machine.exec, execClv] at e; refine C.perform ?_ h e; exact (pure1_keeps (C.flag _ (by simp) (by simp)))
  | lax o => simp only [Machine.exec, execLax] at e; refine C.perform ?_ h e; exact (C.reading C.putAX)
  | sax o => simp only [Machine.exec, execSax] at e; refine C.perform ?_ h e; exact (C.storing _)
  | dcp o => simp only [Machine.exec, execDcp] at e; refine C.perform ?_ h e; exact (C.modifying fun v _ => C.compareWith _ v)
  | isb o => simp only [Machine.exec, execIsb] at e; refine C.perform ?_ h e; exact (C.modifying fun v _ => C.addA _)
  | slo o => simp only [Machine.exec, execSlo] at e; refine C.perform ?_ h e; exact (C.modifying fun v c => C.withCarry c fun s h => C.putA _ s h)
  | rla o => simp only [Machine.exec, execRla] at e; refine C.perform ?_ h e; exact (C.modifying fun v c => C.withCarry c fun s h => C.putA _ s h)
  | sre o => simp only [Machine.exec, execSre] at e; refine C.perform ?_ h e; exact (C.modifying fun v c => C.withCarry c fun s h => C.putA _ s h)
  | rra o => simp only [Machine.exec, execRra] at e; refine C.perform ?_ h e; exact (C.modifying fun v c => C.withCarry c (C.addA v))
  | usbc v => simp only [Machine.exec, execUsbc] at e; refine C.perform ?_ h e; exact (C.reading fun v => C.addA _)
  | unop op o => simp only [Machine.exec, execUnop] at e; refine C.perform ?_ h e; exact C.discardRead
  | unsupported op =>
    simp only [Machine.exec, execUnsupported] at e
    split at e
    · simp at e; subst e; exact C.run s _ h
    · simp at e

theorem StepClosed.fetch (C : StepClosed I) {i : Instr} {s t : State} (h : I s) (e : fetch s = .ok (i, t)) : I t := by
  simp only [Machine.fetch, bind_eq_ok] at e
  obtain ⟨⟨op, s0⟩, e0, e1⟩ := e
  have h0 := C.pc (s0.pc + 1) (C.memRead h e0)
  simp only at e1
  split at e1
  any_goals (simp at e1; obtain ⟨-, rfl⟩ := e1; exact h0)
  all_goals
    simp only [bind_eq_ok] at e1
    obtain ⟨⟨b1, s1⟩, e2, e3⟩ := e1
  any_goals (simp at e3; obtain ⟨-, rfl⟩ := e3; exact C.memRead h0 e2)
  all_goals
    obtain ⟨⟨b2, s2⟩, e4, e5⟩ := e3
    simp at e5; obtain ⟨-, rfl⟩ := e5
    exact C.memRead (C.memRead h0 e2) e4

/-- Every step keeps what the elementary changes keep. -/
theorem StepClosed.step (C : StepClosed I) {s t : State} (h : I s) (e : step s = .next t) : I t := by
  cases hr : s.run
  case running =>
    cases hn : s.ppu.nmi
    case active =>
      rw [step_nmi hr hn] at e
      cases hx : Machine.nmiEntry (consumeNmi s) with
      | ok w => rw [hx] at e; simp [outcome] at e; exact e ▸ C.nmiEntry (C.consume s h) hx
      | error x => rw [hx] at e; simp [outcome] at e
    case inactive =>
      rw [step_instruction hr hn, instructionStep] at e
      cases hx : Machine.fetch s with
      | ok r => rw [hx] at e; exact C.exec (C.fetch (i := r.1) h hx) e
      | error x => rw [hx] at e; simp at e
  all_goals rw [step_idle (by simp [hr])] at e; simp [idleStep, hr] at e
  subst e; exact C.run s _ h

end Sys2Proof.Machine
end

