-- ==== Sys2Proof/Laws/Encoding.lean ====
section
/-! SUPPORT. Words and their bytes, and when decoding gives an instruction back. -/

namespace Sys2Proof

theorem toNat_word16 (h l : Byte) : (word16 h l).toNat = 256 * h.toNat + l.toNat := by
  have hl := l.isLt
  have := Nat.two_pow_add_eq_or_of_lt (i := 8) (b := l.toNat) (by omega) h.toNat
  simp only [word16, BitVec.toNat_append, Nat.shiftLeft_eq]
  rw [Nat.mul_comm] at this
  rw [← this]; omega

theorem toNat_loByte (w : Word) : (loByte w).toNat = w.toNat % 256 := by simp [loByte]

theorem toNat_hiByte (w : Word) : (hiByte w).toNat = w.toNat / 256 := by
  have := w.isLt
  simp [hiByte, Nat.shiftRight_eq_div_pow]; omega

@[simp] theorem loByte_word16 (h l : Byte) : loByte (word16 h l) = l := by
  apply BitVec.eq_of_toNat_eq; have := l.isLt; rw [toNat_loByte, toNat_word16]; omega

@[simp] theorem hiByte_word16 (h l : Byte) : hiByte (word16 h l) = h := by
  apply BitVec.eq_of_toNat_eq; have := l.isLt; rw [toNat_hiByte, toNat_word16]; omega

/-- A word is its two bytes. -/
@[simp] theorem word16_hiByte_loByte (w : Word) : word16 (hiByte w) (loByte w) = w := by
  apply BitVec.eq_of_toNat_eq; rw [toNat_word16, toNat_hiByte, toNat_loByte]; omega

@[simp] theorem mode_operandOf (m : Mode) (b1 b2 : Byte) : (operandOf m b1 b2).mode = m := by cases m <;> rfl

/-- Decoding gives back an instruction whose row has its mode and builds it. -/
theorem decode_of_row {i : Instr} {op : Byte} (hop : i.opcode = some op) (hm : (decodeRow op).mode = i.operand.mode)
    (hb : (decodeRow op).build i.operand = i) : decode (encode i) = .ok (i, []) := by
  simp only [encode, hop]
  cases ho : i.operand <;> rw [ho] at hm hb <;>
    simp [Operand.bytes, decode, decodeBytes, hm, Operand.mode, Mode.length, operandOf, hb]

end Sys2Proof
end

