-- ==== Sys2Proof/Laws/Operands.lean ====
section
/-! SUPPORT. What steps 4 to 7 of an instruction do around its handler: the frame of the accesses, the inversion of
`perform`, and when it answers. -/

namespace Sys2Proof.Machine

/-- `t` has the CPU registers, memories, cartridge and parameters of `s`. -/
def SameCore (s t : State) : Prop :=
  t = { s with cycles := t.cycles, ppu := t.ppu, pad := t.pad, frameReplies := t.frameReplies }

theorem SameCore.refl (s : State) : SameCore s s := rfl

theorem SameCore.trans {s t w : State} (h : SameCore s t) (h' : SameCore t w) : SameCore s w := by
  unfold SameCore at *
  rw [h']; rw [h]

theorem TickFrame.sameCore {s t : State} (h : TickFrame s t) : SameCore s t := h.1

theorem memRead_sameCore {s t : State} {a : Word} {v : Byte} (h : memRead s a = .ok (v, t)) : SameCore s t := by
  have := (memRead_frame h).1
  unfold SameCore; rw [this]

theorem busTick_sameCore {s t : State} {n : Nat} (h : busTick s n = .ok t) : SameCore s t :=
  (busTick_spec h).1.sameCore

theorem readRun_sameCore {k : Nat} {a : Word} {s t : State} {bs : List Byte} (h : readRun k a s = .ok (bs, t)) :
    SameCore s t := by
  induction k generalizing a s t bs with
  | zero => simp [readRun] at h; exact h.2 ▸ SameCore.refl s
  | succ k ih =>
    simp only [readRun, bind_eq_ok] at h
    obtain ⟨⟨v, s1⟩, e1, ⟨vs, s2⟩, e2, e3⟩ := h
    simp at e3; obtain ⟨-, rfl⟩ := e3
    exact (memRead_sameCore e1).trans (ih e2)

theorem address_sameCore {o : Operand} {s t : State} {pl : Place} {c : Bool} (h : address o s = .ok (pl, c, t)) :
    SameCore s t := by
  cases o <;> simp only [address, indexed, read16Zp_eq, ok_bind] at h
  case ind a =>
    simp only [bind_eq_ok] at h
    obtain ⟨⟨v, s1⟩, e1, ⟨v2, s2⟩, e2, e3⟩ := h
    simp at e3; obtain ⟨-, -, rfl⟩ := e3
    exact (memRead_sameCore e1).trans (memRead_sameCore e2)
  all_goals simp at h; obtain ⟨-, -, rfl⟩ := h; exact SameCore.refl _

theorem pageCrossTick_sameCore {op : Byte} {c : Bool} {s t : State} (h : pageCrossTick op c s = .ok t) :
    SameCore s t := by
  unfold pageCrossTick at h
  split at h
  · exact busTick_sameCore h
  · simp at h; exact h ▸ SameCore.refl s

theorem operandPlace_sameCore {op : Byte} {o : Operand} {s t : State} {pl : Place}
    (h : operandPlace op o s = .ok (pl, t)) : SameCore s t := by
  simp only [operandPlace, bind_eq_ok] at h
  obtain ⟨⟨q, c, s0⟩, e0, s1, e1, e2⟩ := h
  simp at e2; obtain ⟨-, rfl⟩ := e2
  exact (address_sameCore e0).trans (pageCrossTick_sameCore e1)

theorem loadPlace_sameCore {pl : Place} {s t : State} {v : Byte} (h : loadPlace pl s = .ok (v, t)) :
    SameCore s t := by
  cases pl <;> simp only [loadPlace] at h
  case mem a => exact memRead_sameCore h
  all_goals simp at h; obtain ⟨-, rfl⟩ := h; exact SameCore.refl _

theorem operandRead_sameCore {op : Byte} {o : Operand} {s t : State} {v : Byte}
    (h : operandRead op o s = .ok (v, t)) : SameCore s t := by
  simp only [operandRead, bind_eq_ok] at h
  obtain ⟨⟨pl, s1⟩, e1, e2⟩ := h
  exact (operandPlace_sameCore e1).trans (loadPlace_sameCore e2)

/-- Being well-behaved is kept by every elementary change. -/
theorem hostSucceeds_closed : StepClosed HostSucceeds where
  regs := fun _ _ _ _ _ _ h => h
  status := fun _ _ h _ => h
  run := fun _ _ h => h
  ram := fun _ _ _ _ h => h
  apu := fun _ _ _ _ h => h
  portRead := fun _ _ _ _ h _ => h
  portWrite := fun _ _ _ _ h _ => h
  padRead := fun _ h => h
  padWrite := fun _ _ h => h
  oam := fun _ _ h => h
  clock := fun _ _ h => h
  frame := fun _ _ h e => hostSucceeds_of_suffix (hostFrame_spec e).2.2 h
  consume := fun _ h => h

theorem operandPlace_succeeds {op : Byte} {o : Operand} {s t : State} {pl : Place} (hs : HostSucceeds s)
    (h : operandPlace op o s = .ok (pl, t)) : HostSucceeds t := by
  simp only [operandPlace, bind_eq_ok] at h
  obtain ⟨⟨q, c, s0⟩, e0, s1, e1, e2⟩ := h
  simp at e2; obtain ⟨-, rfl⟩ := e2
  exact hostSucceeds_closed.pageCrossTick (hostSucceeds_closed.address hs e0) e1

theorem operandRead_succeeds {op : Byte} {o : Operand} {s t : State} {v : Byte} (hs : HostSucceeds s)
    (h : operandRead op o s = .ok (v, t)) : HostSucceeds t := by
  simp only [operandRead, bind_eq_ok] at h
  obtain ⟨⟨pl, s1⟩, e1, e2⟩ := h
  exact hostSucceeds_closed.loadPlace (operandPlace_succeeds hs e1) e2

/-- Step 7 in the terms claims use. -/
theorem advancePc_eq (w : Word) (n : Nat) (s : State) : advancePc w n s = { s with pc := pcAfter w n s.pc } := by
  unfold advancePc pcAfter
  split
  · rename_i h; rw [h]
  · rfl

/-- Steps 4 to 7, taken apart (40_step_and_addressing R144 to R147). -/
theorem runRow_inv {op : Byte} {o : Operand} {f : Place → State → Except Fault State} {s t : State}
    (h : runRow op o f s = .ok t) :
    ∃ pl s1 s2 s3, operandPlace op o s = .ok (pl, s1) ∧ f pl s1 = .ok s2 ∧
      busTick s2 (baseCycles s2 op) = .ok s3 ∧ t = { s3 with pc := pcAfter s.pc o.mode.length s2.pc } := by
  simp only [runRow, bind_eq_ok] at h
  obtain ⟨⟨pl, c, s0⟩, e0, s1, e1, s2, e2, s3, e3, e4⟩ := h
  simp at e4; subst e4
  have hp : operandPlace op o s = .ok (pl, s1) := by simp [operandPlace, e0, e1]
  refine ⟨pl, s1, s2, s3, hp, e2, e3, ?_⟩
  have h1 : s1.pc = s.pc := by rw [operandPlace_sameCore hp]
  have h3 : s3.pc = s2.pc := by rw [busTick_sameCore e3]
  rw [advancePc_eq, h1, h3]

/-- An instruction that answers a next state, taken apart. -/
theorem perform_inv {i : Instr} {f : Place → State → Except Fault State} {s t : State} (h : perform i f s = .next t) :
    ∃ op pl s1 s2 s3, i.opcode = some op ∧ operandPlace op i.operand s = .ok (pl, s1) ∧ f pl s1 = .ok s2 ∧
      busTick s2 (baseCycles s2 op) = .ok s3 ∧ t = { s3 with pc := pcAfter s.pc i.operand.mode.length s2.pc } := by
  unfold perform at h
  split at h
  · rename_i op hop
    cases hr : runRow op i.operand f s with
    | error x => rw [hr] at h; simp [outcome] at h
    | ok w =>
      rw [hr] at h; simp [outcome] at h; subst h
      obtain ⟨pl, s1, s2, s3, h1, h2, h3, h4⟩ := runRow_inv hr
      exact ⟨op, pl, s1, s2, s3, hop, h1, h2, h3, h4⟩
  · simp at h

/-- What an instruction answers once its operand is there and its handler has answered: what the tick of its base cycles
answers, with PC advanced. -/
theorem perform_eq {i : Instr} {f : Place → State → Except Fault State} {s s1 s2 : State} {op : Byte} {pl : Place}
    (hop : i.opcode = some op) (h1 : operandPlace op i.operand s = .ok (pl, s1)) (h2 : f pl s1 = .ok s2) :
    perform i f s =
      outcome (busTick { s2 with pc := pcAfter s.pc i.operand.mode.length s2.pc } (baseCycles s2 op)) := by
  have hpc1 : s1.pc = s.pc := by rw [operandPlace_sameCore h1]
  simp only [operandPlace, bind_eq_ok] at h1
  obtain ⟨⟨q, c, s0⟩, e0, s1', e1, e2⟩ := h1
  simp at e2; obtain ⟨rfl, rfl⟩ := e2
  rw [busTick_withPc]
  simp only [perform, hop, runRow, e0, ok_bind, e1, h2, baseCycles]
  cases h3 : busTick s2 (cycleCost s2.cfg op).base with
  | error e => rfl
  | ok s3 =>
    have hpc3 : s3.pc = s2.pc := by rw [busTick_sameCore h3]
    simp [Except.map, outcome, advancePc_eq, hpc1, hpc3]

/-- When an instruction answers: its operand is there, its handler answers, and no frame callback fails. -/
theorem perform_next {i : Instr} {f : Place → State → Except Fault State} {s s1 s2 : State} {op : Byte} {pl : Place}
    (hop : i.opcode = some op) (h1 : operandPlace op i.operand s = .ok (pl, s1)) (h2 : f pl s1 = .ok s2)
    (hs : HostSucceeds s2) :
    ∃ t, perform i f s = .next t ∧
      Ticked (baseCycles s2 op) { s2 with pc := pcAfter s.pc i.operand.mode.length s2.pc } t := by
  obtain ⟨t, ht⟩ := busTick_total (s := { s2 with pc := pcAfter s.pc i.operand.mode.length s2.pc }) hs (baseCycles s2 op)
  exact ⟨t, by rw [perform_eq hop h1 h2, ht]; rfl, ht⟩

/-- How an instruction ends once its operand is there and its handler has answered. -/
theorem perform_ends {i : Instr} {f : Place → State → Except Fault State} {s s1 s2 : State} {op : Byte} {pl : Place}
    (hi : exec i s = perform i f s) (hop : i.opcode = some op) (h1 : operandPlace op i.operand s = .ok (pl, s1))
    (h2 : f pl s1 = .ok s2) (hc : s2.cfg = s.cfg) (hs : HostSucceeds s → HostSucceeds s2) : Ends i s s2 := by
  have hb : ∀ c, baseCycles s2 c = baseCycles s c := fun c => by unfold baseCycles; rw [hc]
  refine ⟨fun h => ?_, fun c hcop => ?_⟩
  · obtain ⟨t, ht, hT⟩ := perform_next hop h1 h2 (hs h)
    exact ⟨op, t, hop, hi.trans ht, hb op ▸ hT⟩
  · obtain rfl : op = c := by rw [hop] at hcop; simpa using hcop
    rw [hi, perform_eq hop h1 h2, hb]

/-- When an instruction's operand access or handler raises, so does the instruction. -/
theorem perform_fault {i : Instr} {f : Place → State → Except Fault State} {s : State} {op : Byte} {e : Fault}
    (hop : i.opcode = some op)
    (h : (do let r ← operandPlace op i.operand s; f r.1 r.2) = (.error e : Except Fault State)) :
    perform i f s = .fault e := by
  unfold operandPlace at h
  simp only [perform, hop, runRow]
  cases h0 : address i.operand s with
  | error x => rw [h0] at h; simp [bind, Except.bind] at h; simp [bind, Except.bind, outcome, h]
  | ok r =>
    obtain ⟨q, c, s0⟩ := r
    rw [h0] at h
    simp only [ok_bind] at h ⊢
    cases h1 : pageCrossTick op c s0 with
    | error x => rw [h1] at h; simp [bind, Except.bind] at h; simp [bind, Except.bind, outcome, h]
    | ok s1 =>
      rw [h1] at h
      simp only [ok_bind] at h ⊢
      rw [h]; rfl

/-- The operand place of a mode without memory access. -/
theorem operandPlace_plain {op : Byte} {o : Operand} {s : State} {pl : Place} (h : address o s = .ok (pl, false, s)) :
    operandPlace op o s = .ok (pl, s) := by
  simp [operandPlace, h, pageCrossTick]

theorem operandPlace_imp (op : Byte) (s : State) : operandPlace op .imp s = .ok (.none, s) := operandPlace_plain rfl

theorem operandPlace_rel (op d : Byte) (s : State) : operandPlace op (.rel d) s = .ok (.none, s) :=
  operandPlace_plain rfl

/-- A reading instruction answers with its function of the operand byte. -/
theorem perform_reading {i : Instr} {f : Byte → State → State} {s s2 : State} {op v : Byte}
    (hop : i.opcode = some op) (h : operandRead op i.operand s = .ok (v, s2)) (hs : HostSucceeds (f v s2)) :
    ∃ t, perform i (reading f) s = .next t ∧
      Ticked (baseCycles (f v s2) op) { f v s2 with pc := pcAfter s.pc i.operand.mode.length (f v s2).pc } t := by
  simp only [operandRead, bind_eq_ok] at h
  obtain ⟨⟨pl, s1⟩, h1, h2⟩ := h
  exact perform_next hop h1 (by simp [reading, h2]) hs

/-- A register-only instruction answers with its function of the state. -/
theorem perform_pure1 {i : Instr} {f : State → State} {s : State} {op : Byte} (hop : i.opcode = some op)
    (ho : i.operand = .imp) (hs : HostSucceeds (f s)) :
    ∃ t, perform i (pure1 f) s = .next t ∧
      Ticked (baseCycles (f s) op) { f s with pc := pcAfter s.pc 1 (f s).pc } t := by
  have := perform_next (f := pure1 f) hop (by rw [ho]; exact operandPlace_imp op s) rfl hs
  rw [ho] at this; exact this

end Sys2Proof.Machine
end

