-- ==== Sys2Proof/Laws/PerInstr.lean ====
section
/-! SUPPORT. Per instruction: what is encoded is decoded back (30_encoding R120 to R126). -/

/-- The well-formed instruction is decoded from its encoding, nothing left over. -/
def Sys2Proof.Laws.EncodeDecode.Statement (i : Sys2Proof.Instr) : Prop :=
  i.wellFormed = true → Sys2Proof.decode (Sys2Proof.encode i) = .ok (i, [])

namespace Sys2Proof.Laws.EncodeDecode

open Sys2Proof

theorem lda (o : Operand) : Statement (.lda o) := by
  intro h
  cases o <;> first
    | exact decode_of_row rfl rfl rfl
    | simp [Instr.wellFormed, Instr.modes, Instr.operand, Operand.mode] at h

theorem ldx (o : Operand) : Statement (.ldx o) := by
  intro h
  cases o <;> first
    | exact decode_of_row rfl rfl rfl
    | simp [Instr.wellFormed, Instr.modes, Instr.operand, Operand.mode] at h

theorem ldy (o : Operand) : Statement (.ldy o) := by
  intro h
  cases o <;> first
    | exact decode_of_row rfl rfl rfl
    | simp [Instr.wellFormed, Instr.modes, Instr.operand, Operand.mode] at h

theorem sta (o : Operand) : Statement (.sta o) := by
  intro h
  cases o <;> first
    | exact decode_of_row rfl rfl rfl
    | simp [Instr.wellFormed, Instr.modes, Instr.operand, Operand.mode] at h

theorem stx (o : Operand) : Statement (.stx o) := by
  intro h
  cases o <;> first
    | exact decode_of_row rfl rfl rfl
    | simp [Instr.wellFormed, Instr.modes, Instr.operand, Operand.mode] at h

theorem sty (o : Operand) : Statement (.sty o) := by
  intro h
  cases o <;> first
    | exact decode_of_row rfl rfl rfl
    | simp [Instr.wellFormed, Instr.modes, Instr.operand, Operand.mode] at h

theorem tax : Statement .tax := fun _ => rfl

theorem tay : Statement .tay := fun _ => rfl

theorem txa : Statement .txa := fun _ => rfl

theorem tya : Statement .tya := fun _ => rfl

theorem tsx : Statement .tsx := fun _ => rfl

theorem txs : Statement .txs := fun _ => rfl

theorem adc (o : Operand) : Statement (.adc o) := by
  intro h
  cases o <;> first
    | exact decode_of_row rfl rfl rfl
    | simp [Instr.wellFormed, Instr.modes, Instr.operand, Operand.mode] at h

theorem sbc (o : Operand) : Statement (.sbc o) := by
  intro h
  cases o <;> first
    | exact decode_of_row rfl rfl rfl
    | simp [Instr.wellFormed, Instr.modes, Instr.operand, Operand.mode] at h

theorem and (o : Operand) : Statement (.and o) := by
  intro h
  cases o <;> first
    | exact decode_of_row rfl rfl rfl
    | simp [Instr.wellFormed, Instr.modes, Instr.operand, Operand.mode] at h

theorem ora (o : Operand) : Statement (.ora o) := by
  intro h
  cases o <;> first
    | exact decode_of_row rfl rfl rfl
    | simp [Instr.wellFormed, Instr.modes, Instr.operand, Operand.mode] at h

theorem eor (o : Operand) : Statement (.eor o) := by
  intro h
  cases o <;> first
    | exact decode_of_row rfl rfl rfl
    | simp [Instr.wellFormed, Instr.modes, Instr.operand, Operand.mode] at h

theorem cmp (o : Operand) : Statement (.cmp o) := by
  intro h
  cases o <;> first
    | exact decode_of_row rfl rfl rfl
    | simp [Instr.wellFormed, Instr.modes, Instr.operand, Operand.mode] at h

theorem cpx (o : Operand) : Statement (.cpx o) := by
  intro h
  cases o <;> first
    | exact decode_of_row rfl rfl rfl
    | simp [Instr.wellFormed, Instr.modes, Instr.operand, Operand.mode] at h

theorem cpy (o : Operand) : Statement (.cpy o) := by
  intro h
  cases o <;> first
    | exact decode_of_row rfl rfl rfl
    | simp [Instr.wellFormed, Instr.modes, Instr.operand, Operand.mode] at h

theorem bit (o : Operand) : Statement (.bit o) := by
  intro h
  cases o <;> first
    | exact decode_of_row rfl rfl rfl
    | simp [Instr.wellFormed, Instr.modes, Instr.operand, Operand.mode] at h

theorem inc (o : Operand) : Statement (.inc o) := by
  intro h
  cases o <;> first
    | exact decode_of_row rfl rfl rfl
    | simp [Instr.wellFormed, Instr.modes, Instr.operand, Operand.mode] at h

theorem dec (o : Operand) : Statement (.dec o) := by
  intro h
  cases o <;> first
    | exact decode_of_row rfl rfl rfl
    | simp [Instr.wellFormed, Instr.modes, Instr.operand, Operand.mode] at h

theorem inx : Statement .inx := fun _ => rfl

theorem iny : Statement .iny := fun _ => rfl

theorem dex : Statement .dex := fun _ => rfl

theorem dey : Statement .dey := fun _ => rfl

theorem asl (o : Operand) : Statement (.asl o) := by
  intro h
  cases o <;> first
    | exact decode_of_row rfl rfl rfl
    | simp [Instr.wellFormed, Instr.modes, Instr.operand, Operand.mode] at h

theorem lsr (o : Operand) : Statement (.lsr o) := by
  intro h
  cases o <;> first
    | exact decode_of_row rfl rfl rfl
    | simp [Instr.wellFormed, Instr.modes, Instr.operand, Operand.mode] at h

theorem rol (o : Operand) : Statement (.rol o) := by
  intro h
  cases o <;> first
    | exact decode_of_row rfl rfl rfl
    | simp [Instr.wellFormed, Instr.modes, Instr.operand, Operand.mode] at h

theorem ror (o : Operand) : Statement (.ror o) := by
  intro h
  cases o <;> first
    | exact decode_of_row rfl rfl rfl
    | simp [Instr.wellFormed, Instr.modes, Instr.operand, Operand.mode] at h

theorem jmp (o : Operand) : Statement (.jmp o) := by
  intro h
  cases o <;> first
    | exact decode_of_row rfl rfl rfl
    | simp [Instr.wellFormed, Instr.modes, Instr.operand, Operand.mode] at h

theorem jsr (a : Word) : Statement (.jsr a) := fun _ => decode_of_row rfl rfl rfl

theorem rts : Statement .rts := fun _ => rfl

theorem rti : Statement .rti := fun _ => rfl

theorem bcc (d : Byte) : Statement (.bcc d) := fun _ => decode_of_row rfl rfl rfl

theorem bcs (d : Byte) : Statement (.bcs d) := fun _ => decode_of_row rfl rfl rfl

theorem beq (d : Byte) : Statement (.beq d) := fun _ => decode_of_row rfl rfl rfl

theorem bne (d : Byte) : Statement (.bne d) := fun _ => decode_of_row rfl rfl rfl

theorem bmi (d : Byte) : Statement (.bmi d) := fun _ => decode_of_row rfl rfl rfl

theorem bpl (d : Byte) : Statement (.bpl d) := fun _ => decode_of_row rfl rfl rfl

theorem bvc (d : Byte) : Statement (.bvc d) := fun _ => decode_of_row rfl rfl rfl

theorem bvs (d : Byte) : Statement (.bvs d) := fun _ => decode_of_row rfl rfl rfl

theorem brk : Statement .brk := fun _ => rfl

theorem nop : Statement .nop := fun _ => rfl

theorem pha : Statement .pha := fun _ => rfl

theorem pla : Statement .pla := fun _ => rfl

theorem php : Statement .php := fun _ => rfl

theorem plp : Statement .plp := fun _ => rfl

theorem clc : Statement .clc := fun _ => rfl

theorem sec : Statement .sec := fun _ => rfl

theorem cli : Statement .cli := fun _ => rfl

theorem sei : Statement .sei := fun _ => rfl

theorem cld : Statement .cld := fun _ => rfl

theorem sed : Statement .sed := fun _ => rfl

theorem clv : Statement .clv := fun _ => rfl

theorem lax (o : Operand) : Statement (.lax o) := by
  intro h
  cases o <;> first
    | exact decode_of_row rfl rfl rfl
    | simp [Instr.wellFormed, Instr.modes, Instr.operand, Operand.mode] at h

theorem sax (o : Operand) : Statement (.sax o) := by
  intro h
  cases o <;> first
    | exact decode_of_row rfl rfl rfl
    | simp [Instr.wellFormed, Instr.modes, Instr.operand, Operand.mode] at h

theorem dcp (o : Operand) : Statement (.dcp o) := by
  intro h
  cases o <;> first
    | exact decode_of_row rfl rfl rfl
    | simp [Instr.wellFormed, Instr.modes, Instr.operand, Operand.mode] at h

theorem isb (o : Operand) : Statement (.isb o) := by
  intro h
  cases o <;> first
    | exact decode_of_row rfl rfl rfl
    | simp [Instr.wellFormed, Instr.modes, Instr.operand, Operand.mode] at h

theorem slo (o : Operand) : Statement (.slo o) := by
  intro h
  cases o <;> first
    | exact decode_of_row rfl rfl rfl
    | simp [Instr.wellFormed, Instr.modes, Instr.operand, Operand.mode] at h

theorem rla (o : Operand) : Statement (.rla o) := by
  intro h
  cases o <;> first
    | exact decode_of_row rfl rfl rfl
    | simp [Instr.wellFormed, Instr.modes, Instr.operand, Operand.mode] at h

theorem sre (o : Operand) : Statement (.sre o) := by
  intro h
  cases o <;> first
    | exact decode_of_row rfl rfl rfl
    | simp [Instr.wellFormed, Instr.modes, Instr.operand, Operand.mode] at h

theorem rra (o : Operand) : Statement (.rra o) := by
  intro h
  cases o <;> first
    | exact decode_of_row rfl rfl rfl
    | simp [Instr.wellFormed, Instr.modes, Instr.operand, Operand.mode] at h

theorem usbc (v : Byte) : Statement (.usbc v) := fun _ => decode_of_row rfl rfl rfl

theorem unop (op : Byte) (o : Operand) : Statement (.unop op o) := by
  intro h
  have hc : op ∈ nopCodes o.mode := by
    simp only [Instr.wellFormed, Instr.codeOk, Bool.and_eq_true, List.contains_iff_mem] at h
    exact h.2
  cases o <;> simp only [Operand.mode, nopCodes, List.mem_cons, List.not_mem_nil, or_false] at hc
  all_goals repeat' rcases hc with rfl | hc
  all_goals exact decode_of_row rfl rfl rfl

theorem unsupported (op : Byte) : Statement (.unsupported op) := by
  intro h
  have hc : op ∈ unsupportedCodes := by
    simp only [Instr.wellFormed, Instr.codeOk, Bool.and_eq_true, List.contains_iff_mem] at h
    exact h.2
  have key : ∀ c ∈ unsupportedCodes, (decodeRow c).mode = .imp ∧ (decodeRow c).build .imp = .unsupported c := by
    decide
  refine decode_of_row (op := op) ?_ (key op hc).1 (key op hc).2
  simp [Instr.opcode, hc]

end Sys2Proof.Laws.EncodeDecode
end

