-- ==== Sys2Proof/Laws/Ppu.lean ====
section
/-! SUPPORT. What the PPU's operations can change. -/

namespace Sys2Proof.Machine

/-- A PPU write changes at most the VRAM and the palette. -/
theorem ppuWrite_frame {cfg : Config} {u u' : Ppu} {a : Word} {v : Byte} (h : ppuWrite cfg u a v = .ok u') :
    u' = { u with vram := u'.vram, palette := u'.palette } := by
  unfold ppuWrite at h
  simp only at h
  repeat' split at h
  all_goals simp at h
  all_goals subst h; rfl

/-- A port read changes at most the status, the toggles, the address and the data buffer. -/
theorem portRead_frame {cfg : Config} {cart : Cart} {u u' : Ppu} {a : Word} {v : Byte}
    (h : portRead cfg cart u a = .ok (v, u')) :
    u' = { u with
      status := u'.status, addrToggle := u'.addrToggle, scrollToggle := u'.scrollToggle, addr := u'.addr
      dataBuf := u'.dataBuf } := by
  unfold portRead at h
  split at h
  · simp [readStatus] at h; obtain ⟨-, rfl⟩ := h; rfl
  · simp at h; obtain ⟨-, rfl⟩ := h; rfl
  · unfold readData at h
    split at h
    · simp at h
    · split at h <;> simp [incrementAddr] at h <;> obtain ⟨-, rfl⟩ := h <;> rfl
  · simp at h

/-- A port write leaves the status, the data buffer, the clock and the mirroring. -/
theorem portWrite_frame {cfg : Config} {u u' : Ppu} {a : Word} {v : Byte} (h : portWrite cfg u a v = .ok u') :
    u' = { u' with
      status := u.status, dataBuf := u.dataBuf, scanline := u.scanline, cycle := u.cycle
      mirroring := u.mirroring } := by
  unfold portWrite at h
  split at h
  · simp [writeCtrl, raiseNmi] at h; split at h <;> subst h <;> rfl
  · simp at h; subst h; rfl
  · simp at h; subst h; rfl
  · split at h <;> simp [writeOamData] at h; subst h; rfl
  · simp [writeScroll, setScrollToggle] at h
    split at h <;> split at h <;> subst h <;> rfl
  · simp [writeAddr, setAddrToggle] at h
    split at h <;> split at h <;> subst h <;> rfl
  · unfold writeData at h
    split at h
    · rename_i w hw
      simp [incrementAddr] at h; subst h
      rw [ppuWrite_frame hw]
    · simp at h
  · simp at h

/-- The OAM write-all changes the OAM only. -/
theorem oamWriteAll_frame (u : Ppu) (data : List Byte) :
    oamWriteAll data u = { u with oam := (oamWriteAll data u).oam } := rfl

end Sys2Proof.Machine
end

