-- ==== Sys2Proof/Tests/Slice0.lean ====
section
/-! SUPPORT. The model's own tests: ill-formed terms refused, words decoded, one step against the spec's vectors
(95_test_vectors) and rule examples, and a witness for every statement with hypotheses. -/

namespace Sys2Proof.Machine.Tests

/-! ### Well-formedness: an ill-formed term for each check -/

/-- A mode the rule does not list: STA has no immediate form (R203), JMP no zero-page form (R240), STX no X index
(R204), ASL no Y index (R232). -/
theorem test_wf_mode : ([Instr.sta (.imm 0x01), .jmp (.zp 0x10), .stx (.zpx 0x10), .asl (.aby 0x1234), .lda (.rel 0x00),
    .inc .acc, .cpx (.izy 0x10)].any Instr.wellFormed) = false := by decide

/-- A *NOP whose opcode byte is no row of its mode (R279, R280). -/
theorem test_wf_nop : ([Instr.unop 0xEA .imp, .unop 0x80 (.zp 0x10), .unop 0x04 .imp].any Instr.wellFormed) = false := by
  decide

/-- An unsupported code that is none of the 25 (R127). -/
theorem test_wf_unsupported : ([Instr.unsupported 0xEA, .unsupported 0x00].any Instr.wellFormed) = false := by decide

/-- The encoder gives an ill-formed term no bytes and `exec` refuses it by name. -/
theorem test_ill_formed_refused : encode (.sta (.imm 0x01)) = [] ∧
    exec (.sta (.imm 0x01)) State.reset = .refused .noSuchForm ∧
    exec (.unsupported 0xEA) State.reset = .refused .noSuchForm := ⟨rfl, rfl, rfl⟩

/-! ### Decoding: each constructor from a word of the spec's encoding tables -/

/-- Every pair decodes: the bytes, the instruction. -/
def decodes (l : List (List Byte × Instr)) : Bool := l.all fun r => (decode r.1).toOption == some (r.2, [])

/-- Words of loads, stores, transfers (file 41). -/
theorem test_decode_load_store : decodes [
    ([0xB1, 0x20], .lda (.izy 0x20)), ([0xBE, 0x34, 0x12], .ldx (.aby 0x1234)),
    ([0xB4, 0x10], .ldy (.zpx 0x10)), ([0x91, 0x44], .sta (.izy 0x44)), ([0x96, 0x44], .stx (.zpy 0x44)),
    ([0x8C, 0xCD, 0xAB], .sty (.abs 0xABCD)), ([0xAA], .tax), ([0xA8], .tay), ([0x8A], .txa), ([0x98], .tya),
    ([0xBA], .tsx), ([0x9A], .txs)] = true := by decide

/-- Words of arithmetic and logic (file 42). -/
theorem test_decode_arithmetic : decodes [
    ([0x7D, 0xFF, 0x80], .adc (.abx 0x80FF)), ([0xE1, 0x10], .sbc (.izx 0x10)),
    ([0x35, 0x80], .and (.zpx 0x80)), ([0x19, 0x00, 0x01], .ora (.aby 0x0100)),
    ([0x49, 0xFF], .eor (.imm 0xFF)), ([0xC5, 0x01], .cmp (.zp 0x01)), ([0xE0, 0x7F], .cpx (.imm 0x7F)),
    ([0xCC, 0x02, 0x20], .cpy (.abs 0x2002)), ([0x2C, 0x02, 0x20], .bit (.abs 0x2002)),
    ([0xFE, 0x01, 0x02], .inc (.abx 0x0201)), ([0xD6, 0x10], .dec (.zpx 0x10)), ([0xE8], .inx), ([0xC8], .iny),
    ([0xCA], .dex), ([0x88], .dey)] = true := by decide

/-- Words of shifts (file 43). -/
theorem test_decode_shift : decodes [
    ([0x0A], .asl .acc), ([0x5E, 0xFF, 0x01], .lsr (.abx 0x01FF)), ([0x36, 0x20], .rol (.zpx 0x20)),
    ([0x6E, 0x34, 0x12], .ror (.abs 0x1234))] = true := by decide

/-- Words of control flow (file 44). -/
theorem test_decode_control : decodes [
    ([0x6C, 0xFF, 0x02], .jmp (.ind 0x02FF)), ([0x20, 0x04, 0x80], .jsr 0x8004), ([0x60], .rts),
    ([0x40], .rti), ([0x90, 0x02], .bcc 0x02), ([0xB0, 0x02], .bcs 0x02), ([0xF0, 0x20], .beq 0x20),
    ([0xD0, 0xFC], .bne 0xFC), ([0x30, 0x80], .bmi 0x80), ([0x10, 0x00], .bpl 0x00), ([0x50, 0xFF], .bvc 0xFF),
    ([0x70, 0xFE], .bvs 0xFE), ([0x00], .brk), ([0xEA], .nop)] = true := by decide

/-- Words of stack and flags (file 45). -/
theorem test_decode_stack_flags : decodes [
    ([0x48], .pha), ([0x68], .pla), ([0x08], .php), ([0x28], .plp), ([0x18], .clc), ([0x38], .sec),
    ([0x58], .cli), ([0x78], .sei), ([0xD8], .cld), ([0xF8], .sed), ([0xB8], .clv)] = true := by decide

/-- Words of undocumented (file 46). -/
theorem test_decode_undocumented : decodes [
    ([0xBF, 0x34, 0x12], .lax (.aby 0x1234)), ([0x97, 0x10], .sax (.zpy 0x10)),
    ([0xD3, 0x10], .dcp (.izy 0x10)), ([0xFB, 0x00, 0x02], .isb (.aby 0x0200)),
    ([0x03, 0x40], .slo (.izx 0x40)), ([0x3F, 0xFF, 0x07], .rla (.abx 0x07FF)),
    ([0x57, 0x01], .sre (.zpx 0x01)), ([0x6F, 0x00, 0x03], .rra (.abs 0x0300)), ([0xEB, 0x03], .usbc 0x03),
    ([0xDC, 0xFF, 0x02], .unop 0xDC (.abx 0x02FF)), ([0x9C], .unsupported 0x9C)] = true := by decide

/-- A cut-off instruction and no bytes at all do not decode. -/
theorem test_decode_truncated : decode [0x4C, 0x34] = .error (.truncated 0x4C) ∧ decode [] = .error .empty := ⟨rfl, rfl⟩

/-- Table words: bit 0 is the opcode's, operand bytes above `nbits` are 0. -/
theorem test_table_word : decodeTableWord 8 0xAD = some (.lda (.abs 0x0000)) ∧
    decodeTableWord 24 0x12346C = some (.jmp (.ind 0x1234)) ∧ decodeTableWord 16 0x05A9 = some (.lda (.imm 0x05)) :=
  ⟨rfl, rfl, rfl⟩

/-! ### One step of each instruction -/

/-- The running machine after reset with a program's bytes at 0x8000, PC there. -/
def prog (bs : List Byte) : State :=
  { State.reset with run := .running, pc := 0x8000, cart := { blankCart with prg := ⟨16384, Memory.ofBytes 0 bs⟩ } }

/-- The step answers a next state with a property. -/
def gives (s : State) (f : State → Bool) : Bool :=
  match step s with
  | .next t => f t
  | _ => false

/-- The step faults for a reason. -/
def faults (s : State) (e : Fault) : Bool :=
  match step s with
  | .fault r => r == e
  | _ => false

/-- V1. -/
theorem test_lda_negative : gives (prog [0xA9, 0x80]) (fun t =>
    t.a == 0x80 && t.p == 0xA4 && t.pc == 0x8002 && t.cycles == 9) = true := by decide

/-- V66. -/
theorem test_lda_crosses : gives { prog [0xB1, 0x20] with y := 0x10, ram := [(0x20, 0xF8), (0x21, 0x02), (0x308, 0x77)] } (fun t =>
    t.a == 0x77 && t.p == 0x24 && t.cycles == 13) = true := by decide

/-- V65. -/
theorem test_lda_indirect_wraps : gives { prog [0xA1, 0xFE] with x := 0x01, ram := [(0x00, 0x02), (0xFF, 0x34), (0x234, 0x99)] } (fun t =>
    t.a == 0x99 && t.cycles == 13) = true := by decide

/-- V3. -/
theorem test_ldx : gives { prog [0xA6, 0x10] with ram := [(0x10, 0x7F)] } (fun t =>
    t.x == 0x7F && t.p == 0x24 && t.cycles == 10) = true := by decide

/-- V4. -/
theorem test_ldy : gives { prog [0xBC, 0xFF, 0x02] with x := 0x01, ram := [(0x300, 0x42)] } (fun t =>
    t.y == 0x42 && t.pc == 0x8003 && t.cycles == 12) = true := by decide

/-- V5. -/
theorem test_sta : gives { prog [0x9D, 0xFF, 0x02] with a := 0x55, x := 0x01 } (fun t =>
    t.ram == [(0x300, 0x55)] && t.p == 0x24 && t.cycles == 12) = true := by decide

/-- V7. -/
theorem test_stx : gives { prog [0x96, 0xFF] with x := 0x99, y := 0x02 } (fun t =>
    t.ram == [(0x01, 0x99)] && t.cycles == 11) = true := by decide

/-- R205. -/
theorem test_sty : gives { prog [0x8C, 0x00, 0x08] with y := 0x09 } (fun t =>
    t.ram == [(0x000, 0x09)]) = true := by decide

/-- V10. -/
theorem test_tax : gives { prog [0xAA] with a := 0xC0 } (fun t =>
    t.x == 0xC0 && t.p == 0xA4 && t.pc == 0x8001 && t.cycles == 9) = true := by decide

/-- R207. -/
theorem test_tay : gives { prog [0xA8] with a := 0xFF } (fun t =>
    t.y == 0xFF && t.p == 0xA4) = true := by decide

/-- R208. -/
theorem test_txa : gives { prog [0x8A] with x := 0x10 } (fun t =>
    t.a == 0x10 && t.p == 0x24) = true := by decide

/-- R209. -/
theorem test_tya : gives { prog [0x98] with y := 0x80 } (fun t =>
    t.a == 0x80 && t.p == 0xA4) = true := by decide

/-- V8. -/
theorem test_tsx : gives (prog [0xBA]) (fun t =>
    t.x == 0xFD && t.p == 0xA4) = true := by decide

/-- R211. -/
theorem test_txs : gives { prog [0x9A] with x := 0x00 } (fun t =>
    t.sp == 0x00 && t.p == 0x24) = true := by decide

/-- V11. -/
theorem test_adc_overflow : gives { prog [0x69, 0x50] with a := 0x50 } (fun t =>
    t.a == 0xA0 && t.p == 0xE4) = true := by decide

/-- V14. -/
theorem test_adc_decimal : gives { prog [0x69, 0x01] with a := 0x09, p := 0x2C } (fun t =>
    t.a == 0x0A && t.p == 0x2C) = true := by decide

/-- V15. -/
theorem test_sbc_borrow : gives { prog [0xE9, 0x01] with a := 0x00, p := 0x25 } (fun t =>
    t.a == 0xFF && t.p == 0xA4) = true := by decide

/-- V16. -/
theorem test_sbc_overflow : gives { prog [0xE9, 0xB0] with a := 0x50, p := 0x25 } (fun t =>
    t.a == 0xA0 && t.p == 0xE4) = true := by decide

/-- V18. -/
theorem test_and : gives { prog [0x29, 0x0F] with a := 0xF0 } (fun t =>
    t.a == 0x00 && t.p == 0x26) = true := by decide

/-- V19. -/
theorem test_ora : gives (prog [0x09, 0x81]) (fun t =>
    t.a == 0x81 && t.p == 0xA4) = true := by decide

/-- V20. -/
theorem test_eor : gives { prog [0x49, 0xFF] with a := 0x0F } (fun t =>
    t.a == 0xF0 && t.p == 0xA4) = true := by decide

/-- V22. -/
theorem test_cmp : gives { prog [0xC9, 0x41] with a := 0x40 } (fun t =>
    t.a == 0x40 && t.p == 0xA4) = true := by decide

/-- V23. -/
theorem test_cpx : gives { prog [0xE0, 0x10] with x := 0x90 } (fun t =>
    t.p == 0xA5) = true := by decide

/-- V24. -/
theorem test_cpy : gives { prog [0xC0, 0x00] with y := 0x80 } (fun t =>
    t.p == 0xA5) = true := by decide

/-- V25. -/
theorem test_bit : gives { prog [0x24, 0x10] with a := 0x01, ram := [(0x10, 0xC0)] } (fun t =>
    t.a == 0x01 && t.p == 0xE6) = true := by decide

/-- V26. -/
theorem test_inc : gives { prog [0xE6, 0x10] with ram := [(0x10, 0xFF)] } (fun t =>
    t.ram == [] && t.p == 0x26 && t.cycles == 12) = true := by decide

/-- V27. -/
theorem test_dec : gives { prog [0xDE, 0xFF, 0x00] with x := 0x01 } (fun t =>
    t.ram == [(0x100, 0xFF)] && t.p == 0xA4 && t.cycles == 14) = true := by decide

/-- R226. -/
theorem test_inx : gives { prog [0xE8] with x := 0xFF } (fun t =>
    t.x == 0x00 && t.p == 0x26) = true := by decide

/-- V29. -/
theorem test_iny : gives { prog [0xC8] with y := 0x7F } (fun t =>
    t.y == 0x80 && t.p == 0xA4) = true := by decide

/-- V28. -/
theorem test_dex : gives (prog [0xCA]) (fun t =>
    t.x == 0xFF && t.p == 0xA4) = true := by decide

/-- R229. -/
theorem test_dey : gives { prog [0x88] with y := 0x01 } (fun t =>
    t.y == 0x00 && t.p == 0x26) = true := by decide

/-- V30. -/
theorem test_asl : gives { prog [0x0A] with a := 0x80 } (fun t =>
    t.a == 0x00 && t.p == 0x27) = true := by decide

/-- V35. -/
theorem test_lsr : gives { prog [0x5E, 0xFF, 0x01] with x := 0x01, ram := [(0x200, 0x02)] } (fun t =>
    t.ram == [(0x200, 0x01)] && t.p == 0x24 && t.cycles == 14) = true := by decide

/-- V34. -/
theorem test_rol : gives { prog [0x26, 0x10] with ram := [(0x10, 0x81)] } (fun t =>
    t.ram == [(0x10, 0x02)] && t.p == 0x25) = true := by decide

/-- V33. -/
theorem test_ror : gives { prog [0x6A] with a := 0x01, p := 0x25 } (fun t =>
    t.a == 0x80 && t.p == 0xA5) = true := by decide

/-- V38. -/
theorem test_jmp_quirk : gives (prog [0x4C, 0x01, 0x80]) (fun t =>
    t.pc == 0x8003 && t.cycles == 10) = true := by decide

/-- V37. -/
theorem test_jmp_indirect_bug : gives { prog [0x6C, 0xFF, 0x02] with ram := [(0x200, 0x80), (0x2FF, 0x10), (0x300, 0x90)] } (fun t =>
    t.pc == 0x8010 && t.cycles == 12) = true := by decide

/-- V39. -/
theorem test_jsr : gives (prog [0x20, 0x04, 0x80]) (fun t =>
    t.pc == 0x8004 && t.sp == 0xFB && t.ram == [(0x1FC, 0x02), (0x1FD, 0x80)] && t.cycles == 13) = true := by decide

/-- R243. -/
theorem test_rts : gives { prog [0x60] with sp := 0xFB, ram := [(0x1FC, 0x02), (0x1FD, 0x80)] } (fun t =>
    t.pc == 0x8003 && t.sp == 0xFD && t.cycles == 13) = true := by decide

/-- R244. -/
theorem test_rti : gives { prog [0x40] with sp := 0xFA, ram := [(0x1FB, 0x24), (0x1FC, 0x05), (0x1FD, 0x80)] } (fun t =>
    t.pc == 0x8005 && t.sp == 0xFD && t.p == 0x24 && t.cycles == 13) = true := by decide

/-- R245. -/
theorem test_bcc : gives (prog [0x90, 0x02]) (fun t =>
    t.pc == 0x8004 && t.cycles == 10) = true := by decide

/-- R246. -/
theorem test_bcs : gives (prog [0xB0, 0x02]) (fun t =>
    t.pc == 0x8002 && t.cycles == 9) = true := by decide

/-- R247. -/
theorem test_beq : gives { prog [0xF0, 0x7F] with p := 0x26 } (fun t =>
    t.pc == 0x8081 && t.cycles == 10) = true := by decide

/-- V40. -/
theorem test_bne : gives { prog [0xD0, 0x02] with p := 0x26 } (fun t =>
    t.pc == 0x8002 && t.cycles == 9) = true := by decide

/-- R249. -/
theorem test_bmi_crosses : gives { prog [0x30, 0x80] with p := 0xA4 } (fun t =>
    t.pc == 0x7F82 && t.cycles == 11) = true := by decide

/-- R250. -/
theorem test_bpl : gives (prog [0x10, 0x00]) (fun t =>
    t.pc == 0x8002 && t.cycles == 10) = true := by decide

/-- V43. -/
theorem test_bvc_quirk : gives (prog [0x50, 0xFF]) (fun t =>
    t.pc == 0x8002 && t.cycles == 10) = true := by decide

/-- R252. -/
theorem test_bvs : gives { prog [0x70, 0xFE] with p := 0x64 } (fun t =>
    t.pc == 0x8000 && t.cycles == 10) = true := by decide

/-- V44. -/
theorem test_brk : gives (prog [0x00]) (fun t =>
    t.run == .halted && t.pc == 0x8001 && t.cycles == 7 && t.ram == []) = true := by decide

/-- R254. -/
theorem test_nop : gives (prog [0xEA]) (fun t =>
    t.pc == 0x8001 && t.cycles == 9) = true := by decide

/-- V49. -/
theorem test_pha_wraps : gives { prog [0x48] with a := 0x11, sp := 0x00 } (fun t =>
    t.sp == 0xFF && t.ram == [(0x100, 0x11)] && t.cycles == 10) = true := by decide

/-- R257. -/
theorem test_pla : gives { prog [0x68] with sp := 0xFC, ram := [(0x1FD, 0x33)] } (fun t =>
    t.a == 0x33 && t.sp == 0xFD && t.p == 0x24 && t.cycles == 11) = true := by decide

/-- V46. -/
theorem test_php : gives (prog [0x08]) (fun t =>
    t.sp == 0xFC && t.p == 0x24 && t.ram == [(0x1FD, 0x34)]) = true := by decide

/-- V47. -/
theorem test_plp : gives { prog [0x28] with ram := [(0x1FE, 0xFF)] } (fun t =>
    t.p == 0xEF && t.sp == 0xFE) = true := by decide

/-- R260. -/
theorem test_clc : gives { prog [0x18] with p := 0x25 } (fun t =>
    t.p == 0x24) = true := by decide

/-- R261. -/
theorem test_sec : gives (prog [0x38]) (fun t =>
    t.p == 0x25) = true := by decide

/-- R262. -/
theorem test_cli : gives (prog [0x58]) (fun t =>
    t.p == 0x20) = true := by decide

/-- R263. -/
theorem test_sei : gives { prog [0x78] with p := 0x20 } (fun t =>
    t.p == 0x24) = true := by decide

/-- R264. -/
theorem test_cld : gives { prog [0xD8] with p := 0x2C } (fun t =>
    t.p == 0x24) = true := by decide

/-- R265. -/
theorem test_sed : gives (prog [0xF8]) (fun t =>
    t.p == 0x2C) = true := by decide

/-- R266. -/
theorem test_clv : gives { prog [0xB8] with p := 0x64 } (fun t =>
    t.p == 0x24) = true := by decide

/-- V52. -/
theorem test_lax : gives { prog [0xA7, 0x10] with ram := [(0x10, 0x80)] } (fun t =>
    t.a == 0x80 && t.x == 0x80 && t.p == 0xA4) = true := by decide

/-- V53. -/
theorem test_sax : gives { prog [0x87, 0x10] with a := 0xF0, x := 0x3C } (fun t =>
    t.ram == [(0x10, 0x30)] && t.p == 0x24) = true := by decide

/-- V54. -/
theorem test_dcp : gives { prog [0xC7, 0x10] with a := 0x40, ram := [(0x10, 0x41)] } (fun t =>
    t.ram == [(0x10, 0x40)] && t.p == 0x27) = true := by decide

/-- V55. -/
theorem test_isb : gives { prog [0xE7, 0x10] with a := 0x10, p := 0x25, ram := [(0x10, 0x0F)] } (fun t =>
    t.a == 0x00 && t.ram == [(0x10, 0x10)] && t.p == 0x27) = true := by decide

/-- V56. -/
theorem test_slo : gives { prog [0x07, 0x10] with a := 0x01, ram := [(0x10, 0x81)] } (fun t =>
    t.a == 0x03 && t.ram == [(0x10, 0x02)] && t.p == 0x25) = true := by decide

/-- V57. -/
theorem test_rla : gives { prog [0x27, 0x10] with a := 0xFF, p := 0x25, ram := [(0x10, 0x40)] } (fun t =>
    t.a == 0x81 && t.ram == [(0x10, 0x81)] && t.p == 0xA4) = true := by decide

/-- V58. -/
theorem test_sre : gives { prog [0x47, 0x10] with a := 0x01, ram := [(0x10, 0x03)] } (fun t =>
    t.a == 0x00 && t.ram == [(0x10, 0x01)] && t.p == 0x27) = true := by decide

/-- V59. -/
theorem test_rra : gives { prog [0x67, 0x10] with a := 0x10, ram := [(0x10, 0x03)] } (fun t =>
    t.a == 0x12 && t.ram == [(0x10, 0x01)] && t.p == 0x24) = true := by decide

/-- R278. -/
theorem test_usbc : gives { prog [0xEB, 0x03] with a := 0x05, p := 0x25 } (fun t =>
    t.a == 0x02 && t.p == 0x25) = true := by decide

/-- V61. -/
theorem test_unop_crosses : gives { prog [0x1C, 0xFF, 0x02] with x := 0x01 } (fun t =>
    t.a == 0x00 && t.p == 0x24 && t.pc == 0x8003 && t.cycles == 12) = true := by decide

/-- V62. -/
theorem test_unop_status : gives { prog [0x0C, 0x02, 0x20] with ppu := { State.reset.ppu with status := 0x80 } } (fun t =>
    t.ppu.status == 0x00 && t.pc == 0x8003 && t.cycles == 11) = true := by decide

/-- V63. -/
theorem test_unsupported : gives (prog [0x02]) (fun t =>
    t.run == .failed (.unsupportedOpcode 0x02) && t.pc == 0x8001 && t.cycles == 7) = true := by decide

/-! ### Bus, ports, interrupt, clock, host -/

/-- V6, V71 to V74: the forbidden accesses, with the address as issued. -/
theorem test_forbidden : (faults (prog [0x8D, 0x00, 0x80]) (.memoryAccess .write 0x8000) &&
    faults (prog [0xAD, 0xF8, 0x3F]) (.memoryAccess .read 0x3FF8) &&
    faults (prog [0x8D, 0x02, 0x20]) (.memoryAccess .write 0x2002) &&
    faults (prog [0xAD, 0x14, 0x40]) (.memoryAccess .read 0x4014) &&
    faults (prog [0x8D, 0x04, 0x20]) (.memoryAccess .write 0x2004)) = true := by decide

/-- V69, V70: the unmapped range reads 0, APU storage reads what was written. -/
theorem test_unmapped_apu : (gives { prog [0xAD, 0x00, 0x60] with a := 0xFF } (fun t => t.a == 0x00 && t.p == 0x26) &&
    gives { prog [0x8D, 0x00, 0x40] with a := 0x3F } (fun t => t.apu == [(0x4000, 0x3F)]) &&
    gives { prog [0xAE, 0x00, 0x40] with apu := [(0x4000, 0x3F)] } (fun t => t.x == 0x3F)) = true := by decide

/-- V75: the status read. -/
theorem test_status_read : gives { prog [0xAD, 0x02, 0x20] with
      ppu := { State.reset.ppu with status := 0xC0, addrToggle := .second } }
    (fun t => t.a == 0xC0 && t.ppu.status == 0x40 && t.ppu.addrToggle == .first) = true := by decide

/-- S4: the write to 0x2305 and the buffered read (R310 to R313, R316), port by port. -/
theorem test_buffered_read : (gives { prog [0x8D, 0x06, 0x20] with a := 0x23 } (fun t => t.ppu.addr == 0x2300) &&
    gives { prog [0x8D, 0x07, 0x20] with a := 0x66, ppu := { State.reset.ppu with addr := 0x2305 } }
      (fun t => t.ppu.vram == [(0x305, 0x66)] && t.ppu.addr == 0x2306) &&
    gives { prog [0xAD, 0x07, 0x20] with ppu := { State.reset.ppu with addr := 0x2305, vram := [(0x305, 0x66)] } }
      (fun t => t.a == 0x00 && t.ppu.dataBuf == 0x66 && t.ppu.addr == 0x2306)) = true := by decide

/-- V76: a palette read is immediate, through the alias 0x3F10. -/
theorem test_palette_read : gives { prog [0xAD, 0x07, 0x20] with
      ppu := { State.reset.ppu with addr := 0x3F10, palette := [(0x00, 0x2A)] } }
    (fun t => t.a == 0x2A && t.ppu.dataBuf == 0x00 && t.ppu.addr == 0x3F11) = true := by decide

/-- S5: the nametable mirroring of R316 and R318. -/
theorem test_mirroring : ((ntIndex .horizontal 0x2405).toOption == some 0x005 &&
    (ntIndex .horizontal 0x2805).toOption == some 0x405 && (ntIndex .horizontal 0x2C05).toOption == some 0x405 &&
    (ntIndex .vertical 0x2805).toOption == some 0x005 && (ntIndex .vertical 0x2405).toOption == some 0x405 &&
    (ntIndex .vertical 0x2C05).toOption == some 0x405 && (ntIndex .fourScreen 0x2805).toOption == none &&
    ntFold 0x3405 == 0x2405) = true := by decide

/-- V78: the control write that enables NMI during vblank raises the signal, with no frame callback. -/
theorem test_control_write : gives { prog [0x8D, 0x00, 0x20] with
      a := 0x80
      ppu := { State.reset.ppu with status := 0x80 }
      frameReplies := [.failure 0] }
    (fun t => t.ppu.nmi == .active && t.frameReplies == [.failure 0]) = true := by decide

/-- V93: the NMI entry. -/
theorem test_nmi_entry : gives { prog [0xEA] with
      ppu := { State.reset.ppu with nmi := .active }
      cart := { blankCart with prg := ⟨16384, [(0x3FFA, 0x10), (0x3FFB, 0x80)]⟩ } }
    (fun t => t.pc == 0x8010 && t.sp == 0xFA && t.p == 0x24 && t.cycles == 14 && t.ppu.nmi == .inactive &&
      t.ram == [(0x1FB, 0x24), (0x1FD, 0x80)]) = true := by decide

/-- R379, R380: the tick that reaches scanline 241 with NMI enabled calls the host, which may write the buttons or
fail. -/
theorem test_frame_callback :
    (gives { prog [0xEA] with
        ppu := { State.reset.ppu with ctrl := 0x80, scanline := 240, cycle := 340 }
        frameReplies := [.success (some 0x35)] }
      (fun t => t.ppu.nmi == .active && t.ppu.status == 0x80 && t.pad.buttons == 0x35 && t.frameReplies == []) &&
    faults { prog [0xEA] with
        ppu := { State.reset.ppu with ctrl := 0x80, scanline := 240, cycle := 340 }
        frameReplies := [.failure 7] } (.hostCallback 7)) = true := by decide

/-- V97, V98, V99: sprite 0 and the frame wrap. -/
theorem test_tick : ((ppuTick 12 { State.reset.ppu with mask := 0x10 }).status == 0x40 &&
    (ppuTick 12 State.reset.ppu).status == 0x00 &&
    ppuTick 3 { State.reset.ppu with scanline := 261, cycle := 340, status := 0xC0, nmi := .active } ==
      { State.reset.ppu with scanline := 0, cycle := 2, status := 0x00, nmi := .inactive }) = true := by decide

/-- R86, R325, P6: OAM DMA from page 2 starting at OAM address 0xFE. -/
theorem test_oam_dma : gives { prog [0x8D, 0x14, 0x40] with
      a := 0x02
      ppu := { State.reset.ppu with oamAddr := 0xFE }
      ram := [(0x201, 0x01), (0x202, 0x02), (0x2FF, 0xFF)] }
    (fun t => t.ppu.oam == [(0x00, 0x02), (0xFD, 0xFF), (0xFF, 0x01)] && t.ppu.oamAddr == 0xFE && t.cycles == 11) =
    true := by decide +kernel

/-- V90, R88: the joypad, strobed and shifting. -/
theorem test_joypad : (padRead { buttons := 0x01, strobe := true, index := 5 } ==
      (0x01, { buttons := 0x01, strobe := true, index := 0 }) &&
    padRead { buttons := 0x35, strobe := false, index := 2 } ==
      (0x01, { buttons := 0x35, strobe := false, index := 3 }) &&
    padRead { buttons := 0x35, strobe := false, index := 8 } ==
      (0x01, { buttons := 0x35, strobe := false, index := 8 }) &&
    padWrite 0x01 { buttons := 0x35, strobe := false, index := 3 } ==
      { buttons := 0x35, strobe := true, index := 0 }) = true := by decide

/-- The 16 header bytes of a version-1 image, bytes 4 to 7 as given. -/
def header (b4 b5 b6 b7 : Byte) : List Byte := [0x4E, 0x45, 0x53, 0x1A, b4, b5, b6, b7, 0, 0, 0, 0, 0, 0, 0, 0]

/-- V80, V81, V82, V84 to V86: the reasons a load fails, in their order. -/
theorem test_load_errors : (Cart.load [0x4E, 0x45, 0x53, 0x00] == .error .badMagic &&
    Cart.load [0x4E, 0x45, 0x53, 0x1A, 1, 0, 0, 0, 0, 0, 0, 0] == .error .truncated &&
    Cart.load (header 1 0 0 0x08) == .error .unsupportedVersion && Cart.load (header 1 0 0 0) == .error .truncated &&
    Cart.load (header 3 0 0 0) == .error .truncated &&
    Cart.load (header 0 0 0 0) == .error (.unsupportedMapper 0) &&
    Cart.load (header 0 0 0x10 0) == .error (.unsupportedMapper 1)) = true := by decide

/-- V88: bit 3 overrides bit 0. -/
theorem test_load_mirroring : (imgMirroring (header 1 0 0x09 0) == .fourScreen &&
    imgMirroring (header 1 0 0x01 0) == .vertical && imgMirroring (header 1 0 0 0) == .horizontal) = true := by decide

/-- V89, R97: 0xC000 reads PRG offset 0 under NROM-128. -/
theorem test_prg_mirror : gives (prog [0xAD, 0x00, 0xC0]) (fun t => t.a == 0xAD) = true := by decide

/-- R34, R382: Ready steps to Running, a run that has ended has no step. -/
theorem test_run_states : (gives State.reset (fun t => t.run == .running && t.cycles == 7 && t.pc == 0x0000) &&
    faults { State.reset with run := .halted } .notRunning &&
    faults { State.reset with run := .failed (.unsupportedOpcode 0x02) } (.unsupportedOpcode 0x02)) = true := by decide

/-- A placed word is what the next step runs, from reset (its PC is in RAM) and from PRG ROM. -/
theorem test_with_fetch_word : (gives (State.reset.withFetchWord 16 0x05A9) (fun t => t.a == 0x05 && t.pc == 0x0002) &&
    gives ((prog []).withFetchWord 24 0x80104C) (fun t => t.pc == 0x8010)) = true := by decide

/-- R381, S3: the trace line of the first instruction. -/
theorem test_trace : (traceRecord (prog [0xA2, 0x01]) fun _ => 0x00).bytes = [0xA2, 0x01] ∧
    disassemble 0x8000 (.ldx (.imm 0x01)) = "LDX #$01" ∧ disassemble 0xC700 (.bne 0x28) = "BNE $C72A" := by decide

/-- R142, R381, R414: the hook is called in an instruction step, not in an NMI entry and not before the run; the line after
an NMI entry shows the handler's address, SP three lower and I set. -/
theorem test_hook : hostStep (fun _ => 0x00) State.reset = none ∧
    ((hostStep (fun _ => 0x00) (prog [0xA2, 0x01])).map fun r => r.bytes) = some [0xA2, 0x01] ∧
    (runTrace (fun _ _ => 0x00) 2 { prog [0xEA] with
        ppu := { State.reset.ppu with nmi := .active }
        cart := { blankCart with prg := ⟨16384, [(0x10, 0xEA), (0x3FFA, 0x10), (0x3FFB, 0x80)]⟩ } }).map
      (fun r => (r.pc, r.text, r.sp, r.p)) = [(0x8010, "NOP", 0xFA, 0x24)] := by decide

/-- R386: each outcome of a run: Halted, Failed, stuck in a model fault, still going on. -/
theorem test_outcomes : runOutcome 1 (prog [0x00]) = some .halted ∧
    runOutcome 1 (prog [0x02]) = some (.failed (.unsupportedOpcode 0x02)) ∧
    runOutcome 1 (prog [0xAD, 0x00, 0x20]) = some (.failed (.memoryAccess .read 0x2000)) ∧
    runOutcome 1 (prog [0xAD, 0x07, 0x20]) = some (.modelFault (.chrOutOfRange 0x0000)) ∧
    runAfter (prog [0xAD, 0x07, 0x20]) = none ∧ runOutcome 1 (prog [0xEA]) = none := by decide

/-- R400: power-on fills every storage with `P_INIT_FILL`. -/
theorem test_fill : (let s := powerOn { defaultConfig with initFill := 0xFF } blankCart
    Memory.read s.ram 0x7FF == 0xFF && Memory.read s.apu 0x4017 == 0xFF && Memory.read s.ppu.vram 0x7FF == 0xFF &&
      Memory.read s.ppu.palette 0x1F == 0xFF && Memory.read s.ppu.oam 0xFF == 0xFF) = true ∧
    (powerOn defaultConfig blankCart).ram = [] := by decide +kernel

/-- R387: a fetch of the opcode or of an operand byte at a write-only port raises; R380, R146: so does a failing callback in
an instruction's base cycles and in the NMI entry's. -/
theorem test_step_raises : (faults { prog [] with pc := 0x2000 } (.memoryAccess .read 0x2000) &&
    faults { prog [] with pc := 0x1FFF, ram := [(0x7FF, 0xA9)] } (.memoryAccess .read 0x2000) &&
    faults { prog [] with pc := 0x1FFE, ram := [(0x7FE, 0xAD)] } (.memoryAccess .read 0x2000) &&
    faults { prog [0xEA] with
        ppu := { State.reset.ppu with ctrl := 0x80, scanline := 240, cycle := 340, nmi := .active }
        frameReplies := [.failure 7] } (.hostCallback 7)) = true := by decide

/-- R86: DMA pages that raise, and the extra cycles of the parameter. -/
theorem test_dma_pages : (faults { prog [0x8D, 0x14, 0x40] with a := 0x3F } (.memoryAccess .read 0x3F00) &&
    faults { prog [0x8D, 0x14, 0x40] with a := 0x40 } (.memoryAccess .read 0x4014) &&
    gives { prog [0x8D, 0x14, 0x40] with a := 0x60, cfg := { defaultConfig with oamDmaExtraCycles := 513 } }
      (fun t => t.cycles == 524)) = true := by decide +kernel

/-! ### Witnesses: for every statement with hypotheses, a concrete state and operands that meet them -/

/-- A running machine at a NOP. -/
def still : State := prog [0xEA]

/-- A machine about to reach scanline 241 with NMI enabled. -/
def rising (replies : List FrameReply) : State :=
  { still with ppu := { State.reset.ppu with ctrl := 0x80, scanline := 240, cycle := 340 }, frameReplies := replies }

/-- A machine whose every opcode pays a page cross, about to reach scanline 241 with a host that fails there. -/
def failing : State :=
  { rising [.failure 0] with x := 0x01, cfg := { defaultConfig with cycleTable := List.replicate 256 ⟨4, true⟩ } }

/-- A machine whose host fails in the second cycle from now. -/
def nearly : State := { rising [.failure 0] with ppu := { (rising []).ppu with cycle := 337 } }

/-- The hypotheses of a reading instruction's result: a row, a well-behaved host, a readable operand. -/
def readable (s : State) (i : Instr) : Bool :=
  match i.opcode with
  | some op => s.frameReplies.all FrameReply.isSuccess && (operandRead op i.operand s).toOption.isSome
  | none => false

/-- The hypotheses of its error clause. -/
def unreadable (s : State) (i : Instr) : Bool :=
  match i.opcode with
  | some op => (operandRead op i.operand s).toOption.isNone
  | none => false

/-- The hypotheses of a storing instruction's result. -/
def writable (s : State) (i : Instr) : Bool :=
  match i.opcode with
  | some op =>
    match operandPlace op i.operand s with
    | .ok (.mem a, t) => s.frameReplies.all FrameReply.isSuccess && (memWrite t a 0x00).toOption.isSome
    | _ => false
  | none => false

/-- The hypotheses of its error clause at the write. -/
def unwritable (s : State) (i : Instr) : Bool :=
  match i.opcode with
  | some op =>
    match operandPlace op i.operand s with
    | .ok (.mem a, t) => (memWrite t a 0x00).toOption.isNone
    | _ => false
  | none => false

/-- The hypotheses of its error clause at the operand's place. -/
def unplaceable (s : State) (i : Instr) : Bool :=
  match i.opcode with
  | some op => (operandPlace op i.operand s).toOption.isNone
  | none => false

/-- The instruction answers a next state. -/
def completes (s : State) (i : Instr) : Bool :=
  match exec i s with
  | .next _ => true
  | _ => false

theorem witness_DecodeOfEncode : ([Instr.lda (.imm 0xFF), .jmp (.ind 0xFFFF), .bvs 0x80, .unop 0xFC (.abx 0x0000),
    .unsupported 0xBB].all Instr.wellFormed) = true := by decide

theorem witness_ResetState : apuAddress 0x4000 = true ∧ apuAddress 0x4017 = true ∧ apuAddress 0x4014 = false := by
  decide

theorem witness_EncodeOfDecode : decode [0x6C, 0xFF, 0x02, 0xEA] = .ok (.jmp (.ind 0x02FF), [0xEA]) := rfl

theorem witness_UnsupportedEndsRun : (0x02 : Byte) ∈ unsupportedCodes ∧ (prog [0x02]).run = .running ∧
    (prog [0x02]).ppu.nmi = .inactive ∧ memRead (prog [0x02]) (prog [0x02]).pc = .ok (0x02, prog [0x02]) :=
  ⟨by decide, rfl, rfl, rfl⟩

/-- Three bytes from 0xFFFF on: the last PRG byte, then RAM. -/
def spanning : State :=
  { prog [] with pc := 0xFFFF, ram := [(0x00, 0x34), (0x01, 0x12)],
                 cart := { blankCart with prg := ⟨16384, [(0x3FFF, 0x4C)]⟩ } }

theorem witness_StepRunsDecoded : spanning.run = .running ∧ spanning.ppu.nmi = .inactive ∧
    decode [0x4C, 0x34, 0x12] = .ok (.jmp (.abs 0x1234), []) ∧
    ∀ k (h : k < [0x4C, 0x34, (0x12 : Byte)].length),
      plainByte spanning (spanning.pc + BitVec.ofNat 16 k) = some [0x4C, 0x34, (0x12 : Byte)][k] := by
  refine ⟨rfl, rfl, rfl, ?_⟩
  decide

/-- The clauses about reads: an opcode at a readable port, of each length but 2 there; operand bytes that raise, first and
second; a branch; an opcode that raises. -/
theorem witness_StepRunsDecoded_reads :
    (memRead { prog [] with pc := 0x2002 } 0x2002).toOption.isSome = true ∧ (decodeRow 0xC0).mode.length = 2 ∧
    (decodeRow 0x00).mode.length = 1 ∧ (decodeRow 0x20).mode.length = 3 ∧ (decodeRow 0x80).mode.length = 2 ∧
    (decodeRow 0xD0).mode = .rel ∧ (memRead { prog [] with pc := 0x2000 } 0x2000).toOption.isNone = true ∧
    memRead { prog [] with pc := 0x1FFE, ram := [(0x7FE, 0xAD)] } 0x1FFE =
      .ok (0xAD, { prog [] with pc := 0x1FFE, ram := [(0x7FE, 0xAD)] }) ∧
    (memRead { prog [] with pc := 0x1FFE, ram := [(0x7FE, 0xAD)] } 0x1FFF).toOption.isSome = true ∧
    (memRead { prog [] with pc := 0x1FFE, ram := [(0x7FE, 0xAD)] } 0x2000).toOption.isNone = true := by
  refine ⟨by decide, by decide, by decide, by decide, by decide, by decide, by decide, rfl, by decide, by decide⟩

/-- The hypothesis of `Ends`' second clause where the tick raises: the host fails in an instruction's base cycles. -/
theorem witness_Ends : (busTick (rising [.failure 7]) 2).toOption.isNone = true ∧
    (match exec .nop (rising [.failure 7]) with
     | .fault (.hostCallback 7) => true
     | _ => false) = true := by decide

theorem witness_OnlyRunningSteps : { still with run := .halted }.run = .halted ∧
    { still with run := .failed (.hostCallback 0) }.run = .failed (.hostCallback 0) ∧ State.reset.run = .ready :=
  ⟨rfl, rfl, rfl⟩

theorem witness_StepTakesNmi : { still with ppu := { still.ppu with nmi := .active } }.run = .running ∧
    HostSucceeds { still with ppu := { still.ppu with nmi := .active } } := ⟨rfl, by decide⟩

theorem witness_NmiReturnRestores : BreakBits still ∧ HostSucceeds still ∧ (nmiEntry still).toOption.isSome = true :=
  ⟨⟨by decide, by decide⟩, by decide, by decide⟩

/-- A running machine that meets every invariant and steps. -/
theorem witness_StepKeeps : MemoriesCanonical still ∧ BreakBits still ∧ DeviceRanges still ∧ ClockAgrees still ∧
    MirroringFixed still ∧ gives still (fun _ => true) = true :=
  ⟨⟨by decide, by decide, by decide, by decide, by decide⟩, ⟨by decide, by decide⟩,
    ⟨by decide, by decide, by decide, by decide, by decide, by decide⟩, rfl, rfl, by decide⟩

/-- A machine whose host writes the buttons in the coming step, which steps. -/
theorem witness_BusTickEffect_buttons : gives (rising [.success (some 0x35)]) (fun t =>
    t.pad.buttons == buttonsAfter [.success (some 0x35)] 0x00 && t.frameReplies == []) = true := by decide

theorem witness_RunChanges : ([Instr.brk, .unsupported 0x02, .nop].all (completes still)) = true := by decide

theorem witness_PlainOperandRead : HostSucceeds { still with x := 0x01 } ∧
    effectiveAddr (.abx 0x02FF) { still with x := 0x01 } = some 0x0300 ∧
    plainByte { still with x := 0x01 } 0x0300 = some 0x00 ∧ crossesPage (.abx 0x02FF) { still with x := 0x01 } = true ∧
    (cycleCost defaultConfig 0xBD).pageCross = true ∧ (cycleCost defaultConfig 0x9D).pageCross = false :=
  ⟨by decide, by decide, by decide, by decide, by decide, by decide⟩

theorem witness_PageCrossRows : (Instr.lda (.abx 0)).opcode = some 0xBD ∧ (Instr.sta (.abx 0)).opcode = some 0x9D :=
  ⟨rfl, rfl⟩

theorem witness_LoadResults : ([Instr.lda (.imm 0x05), .lda (.izy 0x20), .ldx (.zpy 0xFF), .ldy (.abx 0xFFFF),
      .lax (.izx 0x10)].all (readable still) &&
    [Instr.lda (.abs 0x2000), .ldx (.abs 0x4014), .ldy (.abs 0x3FF8), .lax (.abs 0x2006)].all (unreadable still)) =
    true := by decide

theorem witness_StoreResults : ([Instr.sta (.abs 0x0200), .sta (.izy 0x20), .stx (.zpy 0xFF), .sty (.abs 0x0800),
      .sax (.izx 0x10)].all (writable still) &&
    [Instr.sta (.abs 0x8000), .stx (.abs 0x2002), .sty (.abs 0xFFFF), .sax (.abs 0x2004)].all (unwritable still) &&
    [Instr.sta (.abx 0x00FF)].all (unplaceable failing)) = true := by decide

/-- The hypothesis of the register-only, stack, flag and call results. -/
theorem witness_HostSucceeds : HostSucceeds still ∧ HostSucceeds { still with frameReplies := [.success (some 0x01)] } :=
  ⟨by decide, by decide⟩

theorem witness_TransferResults : ([Instr.tax, .tay, .txa, .tya, .tsx, .txs].all (completes still)) = true := by decide

theorem witness_AddResults : ([Instr.adc (.imm 0x50), .sbc (.zp 0x10), .usbc 0x03].all (readable still) &&
    [Instr.adc (.abs 0x2000), .sbc (.abs 0x2001)].all (unreadable still)) = true := by decide

theorem witness_LogicResults : ([Instr.and (.imm 0x0F), .ora (.abx 0x4018), .eor (.abs 0x8000)].all (readable still) &&
    [Instr.and (.abs 0x2003), .ora (.abs 0x2005), .eor (.abs 0x2006)].all (unreadable still)) = true := by decide

theorem witness_CompareResults : ([Instr.cmp (.imm 0x40), .cpx (.zp 0x10), .cpy (.abs 0x0010), .bit (.abs 0x2002)].all
      (readable still) &&
    [Instr.cmp (.abs 0x2000), .cpx (.abs 0x2000), .cpy (.abs 0x2000), .bit (.abs 0x2000)].all (unreadable still)) =
    true := by decide

/-- The clauses of a read-modify-write result: it completes; its read raises; its write raises; its page cross raises. -/
def modifies (i : Operand → Instr) : Bool :=
  completes still (i (.zp 0x10)) && completes still (i (.abs 0x1FFF)) && unreadable still (i (.abs 0x2000)) &&
    readable still (i (.abs 0x8000)) && unwritable still (i (.abs 0x8000)) && unplaceable failing (i (.abx 0x00FF))

theorem witness_IncDecResults : (modifies .inc && modifies .dec) = true := by decide

theorem witness_IndexStepResults : ([Instr.inx, .iny, .dex, .dey].all (completes still)) = true := by decide

theorem witness_ShiftResults : (modifies .asl && modifies .lsr && modifies .rol && modifies .ror &&
    [Instr.asl .acc, .lsr .acc, .rol .acc, .ror .acc].all (completes still)) = true := by decide

theorem witness_CompositeResults : (modifies .dcp && modifies .isb && modifies .slo && modifies .rla && modifies .sre &&
    modifies .rra) = true := by decide

theorem witness_JumpResults : ([Instr.jmp (.abs 0x8001), .jmp (.ind 0x10FF), .jmp (.ind 0xFFFF)].all (completes still) &&
    (memRead still 0x2000).toOption.isNone && (memRead still 0x2002).toOption.isSome &&
    (memRead still (((0x2002 : Word) &&& 0xFF00) ||| (((0x2002 : Word) + 1) &&& 0x00FF))).toOption.isNone) = true := by
  decide

theorem witness_CallReturnResults : ([Instr.jsr 0x8001, .rts, .rti, .pha, .pla, .php, .plp].all (completes still)) =
    true := by decide

theorem witness_BranchResults : branchOf (.bcc 0x7F) = some (.c, false, 0x7F) ∧ getFlag still.p .c = false ∧
    branchOf (.bcs 0x80) = some (.c, true, 0x80) ∧ getFlag still.p .c ≠ true ∧ HostSucceeds still ∧
    ([Instr.bcc 0x7F, .bcs 0x80, .bpl 0x80].all (completes still)) = true ∧
    cross (still.pc + 1) (still.pc + 1 + sext16 0x80) = true ∧ cross (still.pc + 1) (still.pc + 1 + sext16 0x7F) = false ∧
    ((busTick { still with pc := 0x2000 } 1).toOption.isSome &&
      (memRead (clock 1 { still with pc := 0x2000 }) 0x2000).toOption.isNone &&
      (busTick (rising [.failure 7]) 1).toOption.isNone && (busTick nearly 1).toOption.isSome &&
      (busTick (clock 1 nearly) 1).toOption.isNone) = true := by decide

theorem witness_BranchTakenCycles : branchOf (.bpl 0x80) = some (.n, false, 0x80) ∧ HostSucceeds still ∧
    getFlag still.p .n = false ∧ plainByte still still.pc = some 0xEA ∧ still.cfg = defaultConfig :=
  ⟨rfl, by decide, by decide, by decide, rfl⟩

theorem witness_BrkNopResults : (Instr.unop 0x1A .imp).opcode = some 0x1A ∧
    ([Instr.unop 0x1A .imp, .unop 0x80 (.imm 0x00), .unop 0x1C (.abx 0x02FF), .unop 0x0C (.abs 0x2002)].all
      (readable still) && unreadable still (.unop 0x0C (.abs 0x2000))) = true := by decide

theorem witness_FlagResults : ([Instr.clc, .sec, .cli, .sei, .cld, .sed, .clv].all (completes still)) = true := by decide

theorem witness_NonStoringFrame : ([Instr.lda (.abs 0x2007), .asl .acc, .rts, .brk, .unsupported 0x02].all fun i =>
    !storesSomething i && (completes { still with ppu := { still.ppu with addr := 0x2000 } } i)) = true := by decide

theorem witness_StoreFrame : storeTarget (.sta (.abs 0x4000)) still = some 0x4000 ∧
    storeTarget (.inc (.zpx 0xFF)) { still with x := 0x01 } = some 0x0000 ∧
    ([Instr.sta (.abs 0x4000), .sta (.abs 0x2001), .inc (.zpx 0xFF), .rra (.izx 0x00)].all (completes still)) = true := by
  decide

theorem witness_PushFrame : ([Instr.pha, .php, .jsr 0x9000].all (completes { still with sp := 0x00 })) = true := by decide

theorem witness_RegisterWriters : ([Instr.stx (.zp 0x10), .cmp (.imm 0x01), .nop].all fun i =>
    !writesA i && !writesX i && !writesY i && !writesSp i && completes still i) = true := by decide

theorem witness_FlagWriters : completes still (.adc (.imm 0x01)) = true ∧ Flag.i ∉ writtenFlags (.adc (.imm 0x01)) := by
  decide

theorem witness_BusTickEffect : (clock 1 (rising [])).ppu.nmi = .active ∧ (rising []).ppu.nmi = .inactive ∧
    (clock 1 still).ppu.nmi = .inactive ∧ (rising [.success none]).frameReplies = .success none :: [] ∧
    (rising [.success (some 0x01)]).frameReplies = .success (some 0x01) :: [] ∧
    (rising [.failure 7]).frameReplies = .failure 7 :: [] := ⟨by decide, rfl, by decide, rfl, rfl, rfl⟩

/-- The rows of the read map at the edges of their ranges, each with its own outcome. -/
theorem witness_BusReadMap : (([0x0000, 0x1FFF, 0x2002, 0x3FFF, 0x4000, 0x4013, 0x4015, 0x4016, 0x4017, 0x4018, 0x7FFF,
      0x8000, 0xFFFF].map fun a => (memRead { still with ppu := { still.ppu with addr := 0x2000 } } a).toOption.isSome) ++
    ([0x2000, 0x2001, 0x2003, 0x2005, 0x2006, 0x3FFE, 0x4014].map fun a => (memRead still a).toOption.isNone) ++
    [(padRead { still.pad with index := 7 }).2.index == 8, (padRead { still.pad with index := 8 }).1 == 0x01,
      (padRead { still.pad with strobe := true, index := 8 }).2.index == 0, still.cart.mapper == .nrom128,
      prgByte { still.cart with mapper := .nrom256 } 0xFFFF == 0x00]).all id = true := by decide

/-- The rows of the write map at the edges of their ranges. -/
theorem witness_BusWriteMap : (([0x0000, 0x1FFF, 0x4000, 0x4013, 0x4015, 0x4016, 0x4017, 0x4018, 0x7FFF].map fun a =>
      (memWrite still a 0x01).toOption.isSome) ++
    ([0x2002, 0x3FFA, 0x2004, 0x3FFC, 0x8000, 0xFFFF].map fun a => (memWrite still a 0x01).toOption.isNone) ++
    [still.cfg.oamDataWrite == .fault]).all id = true := by decide

theorem witness_AddressMirrors : (0x0005 : Word).toNat % 0x800 = (0x1805 : Word).toNat % 0x800 ∧
    (0x2002 : Word).toNat % 8 = (0x3FFA : Word).toNat % 8 ∧ (memRead still 0x2002).toOption.isSome = true ∧
    (memWrite still 0x2005 0x01).toOption.isSome = true ∧
    memRead still 0x2000 = .error (.memoryAccess .read 0x2000) ∧
    memWrite still 0x2002 0x01 = .error (.memoryAccess .write 0x2002) := by
  refine ⟨by decide, by decide, by decide, by decide, rfl, rfl⟩

/-- The pages of the clauses, at their boundaries. -/
theorem witness_OamDma_pages : (0x20 : Byte).toNat = 0x20 ∧ (0x3F : Byte).toNat < 0x40 ∧ (0x1F : Byte).toNat < 0x20 ∧
    0x40 < (0x41 : Byte).toNat ∧ 0 < ({ defaultConfig with oamDmaExtraCycles := 513 }).oamDmaExtraCycles := by decide

theorem witness_OamDma : (List.replicate 256 (0 : Byte)).length = 256 ∧ still.cfg.oamDmaExtraCycles = 0 ∧
    ∀ i (h : i < (List.replicate 256 (0 : Byte)).length),
      plainByte still (word16 0x02 0 + BitVec.ofNat 16 i) = some (List.replicate 256 (0 : Byte))[i] := by
  refine ⟨List.length_replicate, rfl, fun i h => ?_⟩
  rw [List.getElem_replicate]
  have : ∀ i, i < 256 → plainByte still (word16 0x02 0 + BitVec.ofNat 16 i) = some 0 := by decide +kernel
  exact this i (by rw [List.length_replicate] at h; exact h)

theorem witness_PortRegisters : 0x2000 ≤ (0x3FF8 : Word).toNat ∧ (0x3FF8 : Word).toNat < 0x4000 ∧
    (0x3FF8 : Word).toNat % 8 = 0 ∧ (0x2005 : Word).toNat % 8 = 5 ∧ still.ppu.scrollToggle = .first ∧
    { still.ppu with scrollToggle := .second, addrToggle := .second }.scrollToggle = .second ∧
    { defaultConfig with oamDataWrite := .allowed }.oamDataWrite = .allowed := by decide

theorem witness_DataPort : (0x2007 : Word).toNat % 8 = 7 ∧ (0x3FFF : Word).toNat % 8 = 7 ∧
    (ppuRead defaultConfig blankCart still.ppu 0x3EFF).toOption.isSome = true ∧
    (ppuRead defaultConfig blankCart still.ppu 0x3F00).toOption.isSome = true ∧
    (ppuRead defaultConfig blankCart still.ppu 0x0000).toOption.isNone = true ∧
    (ppuWrite defaultConfig still.ppu 0x1FFF 0x01).toOption.isSome = true ∧
    (ppuWrite defaultConfig { still.ppu with mirroring := .fourScreen } 0x2800 0x01).toOption.isNone = true := by
  refine ⟨by decide, by decide, by decide, by decide, by decide, by decide, by decide⟩

/-- The rows of the PPU map at the edges of their ranges. -/
theorem witness_PpuAddressSpace : (0x1FFF : Word).toNat < 0x2000 ∧ (0x2FFF : Word).toNat < 0x3000 ∧
    ((0x2FFF : Word).toNat - 0x2000) / 0x400 = 3 ∧ (0x3000 : Word).toNat < 0x3F00 ∧ (0x3EFF : Word).toNat < 0x3F00 ∧
    ((0x3F10 : Word).toNat - 0x3F00) % 32 = 0x10 ∧ (0x3FFF : Word).toNat < 0x4000 ∧
    ({ still.ppu with mirroring := .fourScreen }.mirroring = .fourScreen) := by decide

theorem witness_TickEffect : { still.ppu with scanline := 240 }.scanline = 240 ∧
    { still.ppu with scanline := 261 }.scanline = 261 ∧ still.ppu.scanline ≠ 240 ∧ still.ppu.scanline ≠ 261 := by decide

theorem witness_NmiSignalChanges : (memRead still 0x2002).toOption.isSome = true ∧
    ((memWrite { still with ppu := { still.ppu with status := 0x80 } } 0x2000 0x80).toOption.map fun t => t.ppu.nmi) =
      some .active := by decide

/-- One image for each outcome of the load, the two complete ones at the shortest length that loads. -/
theorem witness_CartridgeLoad : (header 1 0 0 0).take 4 = [0x4E, 0x45, 0x53, 0x1A] ∧ (header 1 0 0 0).length = 16 ∧
    ((header 1 0 0 0x08).getD 7 0).toNat / 4 % 4 ≠ 0 ∧ ((header 1 0 0 0).getD 7 0).toNat / 4 % 4 = 0 ∧
    (header 1 0 0 0).length < 16 + 16384 ∧ (header 1 0 0 0 ++ List.replicate 16384 0x00).length = 16 + 16384 ∧
    (header 2 0 0 0 ++ List.replicate 32768 0x00).length = 16 + 32768 ∧ (header 0 0 0 0).length = 16 ∧
    ((header 0 0 0 0).getD 4 0).toNat ≠ 1 ∧
    (((header 0 0 0x10 0).getD 7 0 &&& 0xF0) ||| ((header 0 0 0x10 0).getD 6 0 >>> 4)) = (0x01 : Byte) ∧
    (header 1 0 0 0).take 3 ≠ [0x4E, 0x45, 0x53, 0x1A] := by
  refine ⟨rfl, rfl, by decide, by decide, by decide, ?_, ?_, rfl, by decide, by decide, by decide⟩
  · rw [List.length_append, List.length_replicate]; rfl
  · rw [List.length_append, List.length_replicate]; rfl

end Sys2Proof.Machine.Tests
end

/-! PROOFS. The invariants of the state (10_state): each predicate is kept by every elementary change a step is made
of (`StepClosed`), so by every step. -/

namespace Sys2Proof.Machine

/-! ### The stored Break bits -/

theorem breakBits_closed : StepClosed BreakBits where
  regs := fun _ _ _ _ _ _ h => h
  status := fun _ _ h hq => hq h
  run := fun _ _ h => h
  ram := fun _ _ _ _ h => h
  apu := fun _ _ _ _ h => h
  portRead := fun _ _ _ _ h _ => h
  portWrite := fun _ _ _ _ h _ => h
  padRead := fun _ h => h
  padWrite := fun _ _ h => h
  oam := fun _ _ h => h
  clock := fun _ _ h => h
  frame := fun _ _ h e => by rw [(hostFrame_spec e).1]; exact h
  consume := fun _ h => h

/-- Settles O11: no elementary change of a step writes another stored B or B2. -/
theorem stepKeepsBreakBits : Obligations.StepKeepsBreakBits :=
  fun _ _ => breakBits_closed.step

/-! ### The storages -/

/-- The VRAM holds two nametable banks (50_ppu R316). -/
theorem ntBank_lt {m : Mirroring} {t b : Nat} (h : ntBank m t = .ok b) : b < 2 := by
  cases m <;> simp only [ntBank] at h
  case horizontal => simp at h; subst h; split <;> omega
  case vertical => simp at h; omega
  case fourScreen => split at h <;> simp at h; omega

/-- A nametable address stands at a VRAM index below 2048 (50_ppu R316, R318). -/
theorem ntIndex_lt {m : Mirroring} {n k : Nat} (h : ntIndex m n = .ok k) : k < 2048 := by
  unfold ntIndex at h
  split at h
  · rename_i b hb
    have := ntBank_lt hb
    simp at h; omega
  · simp at h

/-- A palette address stands at an index below 32 (50_ppu R317). -/
theorem palIndex_lt (cfg : Config) (n : Nat) : palIndex cfg n < 32 := by
  simp only [palIndex]
  split <;> omega

/-- The PPU's storages have their canonical form and their size (10_state R37). -/
def PpuCanonical (u : Ppu) : Prop :=
  (Memory.wf u.vram = true ∧ Memory.below 2048 u.vram = true) ∧
  (Memory.wf u.palette = true ∧ Memory.below 32 u.palette = true) ∧
  (Memory.wf u.oam = true ∧ Memory.below 256 u.oam = true)

/-- A PPU write stays inside the VRAM and the palette. -/
theorem ppuWrite_canonical {cfg : Config} {u u' : Ppu} {a : Word} {v : Byte} (h : PpuCanonical u)
    (e : ppuWrite cfg u a v = .ok u') : PpuCanonical u' := by
  obtain ⟨⟨hvw, hvb⟩, ⟨hpw, hpb⟩, ho⟩ := h
  simp only [ppuWrite] at e
  split at e
  · simp at e; subst e; exact ⟨⟨hvw, hvb⟩, ⟨hpw, hpb⟩, ho⟩
  · split at e
    · split at e
      · rename_i k hk
        simp at e; subst e
        exact ⟨⟨Memory.wf_write hvw, Memory.below_write hvb (ntIndex_lt hk)⟩, ⟨hpw, hpb⟩, ho⟩
      · simp at e
    · simp at e; subst e
      exact ⟨⟨hvw, hvb⟩, ⟨Memory.wf_write hpw, Memory.below_write hpb (palIndex_lt _ _)⟩, ho⟩

/-- A port write stays inside the PPU's storages. -/
theorem portWrite_canonical {cfg : Config} {u u' : Ppu} {a : Word} {v : Byte} (h : PpuCanonical u)
    (e : portWrite cfg u a v = .ok u') : PpuCanonical u' := by
  unfold portWrite at e
  split at e
  · simp [writeCtrl, raiseNmi] at e; split at e <;> subst e <;> exact h
  · simp at e; subst e; exact h
  · simp at e; subst e; exact h
  · split at e <;> simp [writeOamData] at e
    subst e
    obtain ⟨hv, hp, ho, hb⟩ := h
    exact ⟨hv, hp, Memory.wf_write ho, Memory.below_write hb u.oamAddr.isLt⟩
  · simp [writeScroll, setScrollToggle] at e
    split at e <;> split at e <;> subst e <;> exact h
  · simp [writeAddr, setAddrToggle] at e
    split at e <;> split at e <;> subst e <;> exact h
  · unfold writeData at e
    split at e
    · rename_i w hw; simp at e; subst e; have : PpuCanonical w := ppuWrite_canonical h hw
      exact this
    · simp at e
  · simp at e

/-- The OAM write-all stays inside the OAM. -/
theorem oamWriteFrom_canonical {start i : Nat} {data : List Byte} {m : Memory}
    (h : Memory.wf m = true ∧ Memory.below 256 m = true) :
    Memory.wf (oamWriteFrom start i data m) = true ∧ Memory.below 256 (oamWriteFrom start i data m) = true := by
  induction data generalizing i m with
  | nil => exact h
  | cons v t ih => exact ih ⟨Memory.wf_write h.1, Memory.below_write h.2 (Nat.mod_lt _ (by omega))⟩

theorem memoriesCanonical_iff (s : State) : MemoriesCanonical s ↔
    (Memory.wf s.ram = true ∧ Memory.below 2048 s.ram = true) ∧
    (Memory.wf s.apu = true ∧ s.apu.all (fun c => apuAddress c.1) = true) ∧ PpuCanonical s.ppu :=
  ⟨fun h => ⟨h.ram, h.apu, h.vram, h.palette, h.oam⟩, fun ⟨hr, ha, hv, hp, ho⟩ => ⟨hr, ha, hv, hp, ho⟩⟩

/-- A new PPU whose storages are canonical. -/
theorem MemoriesCanonical.withPpu {s : State} {u : Ppu} (h : MemoriesCanonical s)
    (hu : PpuCanonical s.ppu → PpuCanonical u) : MemoriesCanonical { s with ppu := u } := by
  obtain ⟨hr, ha, hp⟩ := (memoriesCanonical_iff s).1 h
  exact (memoriesCanonical_iff _).2 ⟨hr, ha, hu hp⟩

theorem memoriesCanonical_closed : StepClosed MemoriesCanonical where
  regs := fun _ _ _ _ _ _ h => { h with }
  status := fun _ _ h _ => { h with }
  run := fun _ _ h => { h with }
  ram := fun _ _ _ hk h => { h with ram := ⟨Memory.wf_write h.ram.1, Memory.below_write h.ram.2 hk⟩ }
  apu := fun _ _ _ hn h => { h with apu := ⟨Memory.wf_write h.apu.1, Memory.all_write h.apu.2 hn⟩ }
  portRead := fun _ _ _ _ h e => h.withPpu fun hp => by rw [portRead_frame e]; exact hp
  portWrite := fun _ _ _ _ h e => h.withPpu fun hp => portWrite_canonical hp e
  padRead := fun _ h => { h with }
  padWrite := fun _ _ h => { h with }
  oam := fun _ _ h => { h with oam := oamWriteFrom_canonical h.oam }
  clock := fun s n h =>
    { h.withPpu (u := ppuTick (3 * n) s.ppu) fun hp => by rw [ppuTick_onlyClock (3 * n) s.ppu]; exact hp with }
  frame := fun _ _ h e => by rw [(hostFrame_spec e).1]; exact { h with }
  consume := fun _ h => h.withPpu fun hp => hp

/-- Settles O10: every write of a step stands inside its storage and keeps the canonical form. -/
theorem stepKeepsMemories : Obligations.StepKeepsMemories :=
  fun _ _ => memoriesCanonical_closed.step

/-! ### The ranges of PPU and joypad -/

/-- A status whose low six bits are 0 keeps them so when one of the two above is written (50_ppu R304). -/
theorem setBit_low {v : Byte} {k : Nat} (hk : 6 ≤ k) (b : Bool) (h : v &&& 0x3F = 0) : setBit v k b &&& 0x3F = 0 := by
  apply BitVec.eq_of_getLsbD_eq
  intro j hj
  have hv : (v &&& 0x3F).getLsbD j = false := by rw [h]; simp
  have hbit := bitOf_setBit v (k := k) b hj
  simp only [bitOf] at hbit
  rw [BitVec.getLsbD_and] at hv ⊢
  rw [hbit]
  split
  · have : j = 6 ∨ j = 7 := by omega
    rcases this with rfl | rfl <;> simp
  · simpa using hv

theorem toNat_and_3FFF (w : Word) : (w &&& 0x3FFF).toNat ≤ 0x3FFF := by
  rw [BitVec.toNat_and]; exact Nat.and_le_right

/-- The ranges of the PPU's own fields (10_state R36, R38; 50_ppu R304). -/
structure PpuRanges (cfg : Config) (u : Ppu) : Prop where
  addr : u.addr.toNat ≤ 0x3FFF
  scanline : u.scanline ≤ 261
  cycle : u.cycle ≤ 340
  status : u.status &&& 0x3F = 0
  toggles : cfg.toggleMode = .shared → u.scrollToggle = u.addrToggle

theorem deviceRanges_iff (s : State) : DeviceRanges s ↔ PpuRanges s.cfg s.ppu ∧ s.pad.index ≤ 8 :=
  ⟨fun h => ⟨⟨h.addr, h.scanline, h.cycle, h.status, h.toggles⟩, h.index⟩,
    fun ⟨h, hi⟩ => ⟨h.addr, h.scanline, h.cycle, h.status, h.toggles, hi⟩⟩

theorem PpuRanges.incrementAddr {cfg : Config} {u : Ppu} (h : PpuRanges cfg u) : PpuRanges cfg (incrementAddr u) :=
  { h with addr := toNat_and_3FFF _ }

/-- A port read keeps the ranges. -/
theorem PpuRanges.portRead {cfg : Config} {cart : Cart} {u u' : Ppu} {a : Word} {v : Byte} (h : PpuRanges cfg u)
    (e : portRead cfg cart u a = .ok (v, u')) : PpuRanges cfg u' := by
  unfold Machine.portRead at e
  split at e
  · simp [readStatus] at e; obtain ⟨-, rfl⟩ := e
    exact { h with status := setBit_low (by omega) _ h.status, toggles := fun _ => rfl }
  · simp at e; obtain ⟨-, rfl⟩ := e; exact h
  · unfold readData at e
    split at e
    · simp at e
    · split at e <;> simp at e <;> obtain ⟨-, rfl⟩ := e
      · exact { h.incrementAddr with }
      · exact h.incrementAddr
  · simp at e

/-- A write of one toggle writes the other where they are one cell (50_ppu R309). -/
theorem setScrollToggle_ranges {cfg : Config} {u : Ppu} {t : Toggle} (h : PpuRanges cfg u) :
    PpuRanges cfg (setScrollToggle cfg t u) := by
  unfold setScrollToggle
  split
  · rename_i hm; exact { h with toggles := fun hs => by simp [hm] at hs }
  · exact { h with toggles := fun _ => rfl }

/-- A write of one toggle writes the other where they are one cell (50_ppu R310). -/
theorem setAddrToggle_ranges {cfg : Config} {u : Ppu} {t : Toggle} (h : PpuRanges cfg u) :
    PpuRanges cfg (setAddrToggle cfg t u) := by
  unfold setAddrToggle
  split
  · rename_i hm; exact { h with toggles := fun hs => by simp [hm] at hs }
  · exact { h with toggles := fun _ => rfl }

/-- A port write keeps the ranges. -/
theorem PpuRanges.portWrite {cfg : Config} {u u' : Ppu} {a : Word} {v : Byte} (h : PpuRanges cfg u)
    (e : portWrite cfg u a v = .ok u') : PpuRanges cfg u' := by
  unfold Machine.portWrite at e
  split at e
  · simp [writeCtrl, raiseNmi] at e; split at e <;> subst e <;> exact { h with }
  · simp at e; subst e; exact { h with }
  · simp at e; subst e; exact { h with }
  · split at e <;> simp [writeOamData] at e
    subst e; exact { h with }
  · simp [writeScroll] at e
    split at e <;> subst e <;> exact setScrollToggle_ranges { h with }
  · simp [writeAddr] at e
    split at e <;> subst e <;> exact setAddrToggle_ranges { h with addr := toNat_and_3FFF _ }
  · unfold writeData at e
    split at e
    · rename_i w hw
      simp at e; subst e
      have hwr : PpuRanges cfg w := by rw [ppuWrite_frame hw]; exact { h with }
      exact hwr.incrementAddr
    · simp at e
  · simp at e

@[simp] theorem vblankStart_status (u : Ppu) : (vblankStart u).status = setBit u.status 7 true := by
  simp only [vblankStart, raiseNmi]; split <;> rfl

@[simp] theorem vblankStart_scanline (u : Ppu) : (vblankStart u).scanline = u.scanline := by
  simp only [vblankStart, raiseNmi]; split <;> rfl

@[simp] theorem vblankStart_cycle (u : Ppu) : (vblankStart u).cycle = u.cycle := by
  simp only [vblankStart, raiseNmi]; split <;> rfl

/-- One turn of the tick's loop, by the scanline it starts on: vblank starts after 240, the frame wraps after 261, and no
turn does both (50_ppu R319, R321, R322). -/
theorem nextScanline_eq (u : Ppu) :
    nextScanline u =
      if u.scanline = 240 then vblankStart { u with cycle := u.cycle - 341, scanline := u.scanline + 1 }
      else if u.scanline = 261 then frameWrap { u with cycle := u.cycle - 341, scanline := u.scanline + 1 }
      else { u with cycle := u.cycle - 341, scanline := u.scanline + 1 } := by
  simp only [nextScanline, Nat.reduceEqDiff]
  by_cases h : u.scanline = 240
  · simp [h]
  · simp [h]

/-- One turn of the tick's loop takes a scanline's cycles off and keeps the other ranges. -/
theorem nextScanline_ranges {u : Ppu} (hs : u.scanline ≤ 261) (hst : u.status &&& 0x3F = 0) :
    (nextScanline u).scanline ≤ 261 ∧ (nextScanline u).status &&& 0x3F = 0 ∧
      (nextScanline u).cycle = u.cycle - 341 := by
  rw [nextScanline_eq]
  split
  · exact ⟨by simp; omega, by simpa using setBit_low (by omega) _ hst, by simp⟩
  · split
    · exact ⟨Nat.zero_le _, setBit_low (by omega) _ (setBit_low (by omega) _ hst), rfl⟩
    · exact ⟨by simp only; omega, hst, rfl⟩

/-- `cycle / 341` turns leave less than a scanline's cycles (50_ppu R319). -/
theorem scanlineLoop_ranges {k : Nat} {u : Ppu} (hk : u.cycle < 341 * (k + 1)) (hs : u.scanline ≤ 261)
    (hst : u.status &&& 0x3F = 0) :
    (scanlineLoop k u).scanline ≤ 261 ∧ (scanlineLoop k u).status &&& 0x3F = 0 ∧ (scanlineLoop k u).cycle ≤ 340 := by
  induction k generalizing u with
  | zero => exact ⟨hs, hst, by simp only [scanlineLoop]; omega⟩
  | succ k ih =>
    simp only [scanlineLoop]
    split
    · obtain ⟨hs', hst', hc'⟩ := nextScanline_ranges hs hst
      exact ih (by omega) hs' hst'
    · exact ⟨hs, hst, by omega⟩

/-- The sprite-0 test writes at most bit 6 of the status (50_ppu R320). -/
theorem spriteZeroTest_status {u : Ppu} (h : u.status &&& 0x3F = 0) : (spriteZeroTest u).status &&& 0x3F = 0 := by
  unfold spriteZeroTest
  split
  · exact setBit_low (by omega) _ h
  · exact h

theorem spriteZeroTest_scanline (u : Ppu) : (spriteZeroTest u).scanline = u.scanline := by
  unfold spriteZeroTest; split <;> rfl

/-- The PPU's tick keeps the ranges (50_ppu R319 to R322). -/
theorem PpuRanges.ppuTick {cfg : Config} {u : Ppu} (n : Nat) (h : PpuRanges cfg u) : PpuRanges cfg (ppuTick n u) := by
  have hf := ppuTick_onlyClock n u
  obtain ⟨hs, hst, hc⟩ := scanlineLoop_ranges (u := spriteZeroTest { u with cycle := u.cycle + n })
    (k := (spriteZeroTest { u with cycle := u.cycle + n }).cycle / 341) (by omega)
    ((spriteZeroTest_scanline _).trans_le h.scanline) (spriteZeroTest_status h.status)
  exact ⟨by rw [hf]; exact h.addr, hs, hc, hst, by rw [hf]; exact h.toggles⟩

/-- The shift index stops at 8 (20_memory R88). -/
theorem padRead_index {p : Pad} (h : p.index ≤ 8) : (padRead p).2.index ≤ 8 := by
  unfold padRead
  split
  · simp
  · split
    · exact h
    · simp only; omega

theorem padWrite_index {p : Pad} (v : Byte) (h : p.index ≤ 8) : (padWrite v p).index ≤ 8 := by
  simp only [padWrite]
  split
  · omega
  · exact h

/-- A new PPU whose fields are in their ranges. -/
theorem DeviceRanges.withPpu {s : State} {u : Ppu} (h : DeviceRanges s)
    (hu : PpuRanges s.cfg s.ppu → PpuRanges s.cfg u) : DeviceRanges { s with ppu := u } := by
  obtain ⟨hp, hi⟩ := (deviceRanges_iff s).1 h
  exact (deviceRanges_iff _).2 ⟨hu hp, hi⟩

theorem deviceRanges_closed : StepClosed DeviceRanges where
  regs := fun _ _ _ _ _ _ h => { h with }
  status := fun _ _ h _ => { h with }
  run := fun _ _ h => { h with }
  ram := fun _ _ _ _ h => { h with }
  apu := fun _ _ _ _ h => { h with }
  portRead := fun _ _ _ _ h e => h.withPpu fun hp => hp.portRead e
  portWrite := fun _ _ _ _ h e => h.withPpu fun hp => hp.portWrite e
  padRead := fun _ h => { h with index := padRead_index h.index }
  padWrite := fun _ v h => { h with index := padWrite_index v h.index }
  oam := fun _ _ h => { h with }
  clock := fun s n h => { h.withPpu (u := ppuTick (3 * n) s.ppu) fun hp => hp.ppuTick _ with }
  frame := fun s t h e => by
    obtain ⟨ht, hpad, -⟩ := hostFrame_spec e
    have hi : t.pad.index ≤ 8 := by rw [hpad]; exact h.index
    rw [ht]; exact { h with index := hi }
  consume := fun _ h => { h with }

/-- Settles O12: the ports mask and mirror what they write, the tick takes whole scanlines off, and the joypad's index
stops at 8. -/
theorem stepKeepsDeviceRanges : Obligations.StepKeepsDeviceRanges :=
  fun _ _ => deviceRanges_closed.step

end Sys2Proof.Machine

/-! ### What an instruction writes of the registers and the flags

`Writes i s t`: from `s` to `t`, only registers and flags change that `i` may write. Every shared operation of a step is
within it, so each instruction's handler needs checking only for what it writes itself. -/

namespace Sys2Proof.Machine

/-! #### Flags -/

theorem OnlyFlags.refl (fs : List Flag) (p : Byte) : OnlyFlags fs p p := fun _ _ => rfl

theorem OnlyFlags.trans {fs : List Flag} {p q r : Byte} (h : OnlyFlags fs p q) (h' : OnlyFlags fs q r) :
    OnlyFlags fs p r :=
  fun f hf => (h' f hf).trans (h f hf)

theorem onlyFlags_setFlag {fs : List Flag} {f : Flag} (hf : f ∈ fs) (p : Byte) (b : Bool) :
    OnlyFlags fs p (setFlag p f b) := by
  intro g hg
  have : f ≠ g := fun h => hg (h ▸ hf)
  simp [this]

theorem onlyFlags_flagsZN {fs : List Flag} (hz : .z ∈ fs) (hn : .n ∈ fs) (p v : Byte) :
    OnlyFlags fs p (flagsZN p v) :=
  (onlyFlags_setFlag hz p _).trans (onlyFlags_setFlag hn _ _)

theorem onlyFlags_flagsAdd {fs : List Flag} (hc : .c ∈ fs) (hv : .v ∈ fs) (hz : .z ∈ fs) (hn : .n ∈ fs)
    (p a m : Byte) : OnlyFlags fs p (flagsAdd p a m) :=
  ((onlyFlags_setFlag hc p _).trans (onlyFlags_setFlag hv _ _)).trans (onlyFlags_flagsZN hz hn _ _)

theorem onlyFlags_flagsCompare {fs : List Flag} (hc : .c ∈ fs) (hz : .z ∈ fs) (hn : .n ∈ fs) (p r m : Byte) :
    OnlyFlags fs p (flagsCompare p r m) :=
  (onlyFlags_setFlag hc p _).trans (onlyFlags_flagsZN hz hn _ _)

theorem onlyFlags_flagsBit {fs : List Flag} (hz : .z ∈ fs) (hv : .v ∈ fs) (hn : .n ∈ fs) (p a m : Byte) :
    OnlyFlags fs p (flagsBit p a m) :=
  ((onlyFlags_setFlag hz p _).trans (onlyFlags_setFlag hv _ _)).trans (onlyFlags_setFlag hn _ _)

/-! #### The relation, and the operations that write no register -/

/-- From `s` to `t` only registers and flags change that `i` may write. -/
structure Writes (i : Instr) (s t : State) : Prop where
  a : writesA i = false → t.a = s.a
  x : writesX i = false → t.x = s.x
  y : writesY i = false → t.y = s.y
  sp : writesSp i = false → t.sp = s.sp
  flags : OnlyFlags (writtenFlags i) s.p t.p

section

variable {i : Instr}

theorem Writes.refl (s : State) : Writes i s s := ⟨fun _ => rfl, fun _ => rfl, fun _ => rfl, fun _ => rfl, .refl _ _⟩

theorem Writes.trans {s t u : State} (h : Writes i s t) (h' : Writes i t u) : Writes i s u where
  a := fun hw => (h'.a hw).trans (h.a hw)
  x := fun hw => (h'.x hw).trans (h.x hw)
  y := fun hw => (h'.y hw).trans (h.y hw)
  sp := fun hw => (h'.sp hw).trans (h.sp hw)
  flags := h.flags.trans h'.flags

theorem Writes.of_sameCore {s t : State} (h : SameCore s t) : Writes i s t := by
  rw [h]; exact { Writes.refl s with }

/-- A bus write changes no register: the transfer of an OAM DMA only reads and ticks. -/
theorem Writes.memWrite {s t : State} {a : Word} {v : Byte} (e : memWrite s a v = .ok t) : Writes i s t := by
  unfold Machine.memWrite at e
  cases hr : regionOf a <;> simp only [hr] at e
  case port =>
    split at e <;> simp at e
    subst e; exact { Writes.refl s with }
  case oamDma =>
    simp only [oamDma, bind_eq_ok] at e
    obtain ⟨⟨bs, s1⟩, e1, e2⟩ := e
    have h1 : Writes i s { s1 with ppu := oamWriteAll bs s1.ppu } := { Writes.of_sameCore (readRun_sameCore e1) with }
    split at e2
    · exact h1.trans (.of_sameCore (busTick_sameCore e2))
    · simp at e2; exact e2 ▸ h1
  case prg => simp at e
  all_goals simp at e; subst e; exact { Writes.refl s with }

/-- A store is within what an instruction may write, if it writes A where the place is the accumulator. -/
theorem Writes.storePlace {pl : Place} {s t : State} {v : Byte} (hacc : pl = .acc → writesA i = true)
    (e : storePlace pl v s = .ok t) : Writes i s t := by
  cases pl <;> simp only [Machine.storePlace] at e
  case mem a => exact .memWrite e
  case acc =>
    simp at e; subst e
    exact { Writes.refl s with a := fun hw => by simp [hacc rfl] at hw }
  all_goals simp at e; exact e ▸ .refl s

theorem Writes.setSp {v : Byte} {s : State} (hsp : writesSp i = true := by rfl) : Writes i s { s with sp := v } :=
  { Writes.refl s with sp := fun hw => by simp [hsp] at hw }

theorem Writes.push {s t : State} {v : Byte} (hsp : writesSp i = true) (e : push s v = .ok t) : Writes i s t := by
  rw [push_eq] at e; simp at e; subst e
  exact { Writes.setSp hsp with }

theorem Writes.push16 {s t : State} {w : Word} (hsp : writesSp i = true) (e : push16 s w = .ok t) : Writes i s t := by
  simp only [Machine.push16, bind_eq_ok] at e
  obtain ⟨s1, e1, e2⟩ := e
  exact (Writes.push hsp e1).trans (.push hsp e2)

theorem Writes.pop {s t : State} {v : Byte} (hsp : writesSp i = true) (e : pop s = .ok (v, t)) : Writes i s t := by
  rw [pop_eq] at e; simp at e; obtain ⟨-, rfl⟩ := e
  exact .setSp hsp

theorem Writes.pop16 {s t : State} {w : Word} (hsp : writesSp i = true) (e : pop16 s = .ok (w, t)) :
    Writes i s t := by
  simp only [Machine.pop16, bind_eq_ok] at e
  obtain ⟨⟨lo, s1⟩, e1, ⟨hi, s2⟩, e2, e3⟩ := e
  simp at e3; obtain ⟨-, rfl⟩ := e3
  exact (Writes.pop hsp e1).trans (.pop hsp e2)

/-! #### The register updates

What an update writes is asked of `i` where it is used, and answered there by unfolding the two lists. -/

theorem Writes.status {s : State} {q : Byte} (h : OnlyFlags (writtenFlags i) s.p q) : Writes i s { s with p := q } :=
  { Writes.refl s with flags := h }

theorem Writes.setFlag {f : Flag} {b : Bool} {s : State} (hf : f ∈ writtenFlags i := by simp [writtenFlags]) :
    Writes i s { s with p := setFlag s.p f b } :=
  .status (onlyFlags_setFlag hf _ _)

theorem Writes.setZN {v : Byte} {s : State} (hz : .z ∈ writtenFlags i := by simp [writtenFlags])
    (hn : .n ∈ writtenFlags i := by simp [writtenFlags]) : Writes i s (setZN v s) :=
  .status (onlyFlags_flagsZN hz hn _ _)

theorem Writes.putA {v : Byte} {s : State} (ha : writesA i = true := by rfl)
    (hz : .z ∈ writtenFlags i := by simp [writtenFlags]) (hn : .n ∈ writtenFlags i := by simp [writtenFlags]) :
    Writes i s (putA v s) :=
  { Writes.setZN (v := v) (s := s) hz hn with a := fun hw => by simp [ha] at hw }

theorem Writes.putX {v : Byte} {s : State} (hx : writesX i = true := by rfl)
    (hz : .z ∈ writtenFlags i := by simp [writtenFlags]) (hn : .n ∈ writtenFlags i := by simp [writtenFlags]) :
    Writes i s (putX v s) :=
  { Writes.setZN (v := v) (s := s) hz hn with x := fun hw => by simp [hx] at hw }

theorem Writes.putY {v : Byte} {s : State} (hy : writesY i = true := by rfl)
    (hz : .z ∈ writtenFlags i := by simp [writtenFlags]) (hn : .n ∈ writtenFlags i := by simp [writtenFlags]) :
    Writes i s (putY v s) :=
  { Writes.setZN (v := v) (s := s) hz hn with y := fun hw => by simp [hy] at hw }

theorem Writes.putAX {v : Byte} {s : State} (ha : writesA i = true := by rfl) (hx : writesX i = true := by rfl)
    (hz : .z ∈ writtenFlags i := by simp [writtenFlags]) (hn : .n ∈ writtenFlags i := by simp [writtenFlags]) :
    Writes i s (putAX v s) :=
  { Writes.putA (v := v) (s := s) ha hz hn with x := fun hw => by simp [hx] at hw }

theorem Writes.addA {m : Byte} {s : State} (ha : writesA i = true := by rfl)
    (hf : writtenFlags i = [.c, .z, .v, .n] := by rfl) : Writes i s (addA m s) :=
  { Writes.refl s with
    a := fun hw => by simp [ha] at hw
    flags := by rw [hf]; exact onlyFlags_flagsAdd (by simp) (by simp) (by simp) (by simp) _ _ _ }

theorem Writes.compareWith {reg : State → Byte} {m : Byte} {s : State}
    (hf : writtenFlags i = [.c, .z, .n] := by rfl) : Writes i s (compareWith reg m s) :=
  .status (by rw [hf]; exact onlyFlags_flagsCompare (by simp) (by simp) (by simp) _ _ _)

theorem Writes.shiftFlags {r : Byte} {c : Bool} {s : State} (hf : writtenFlags i = [.c, .z, .n] := by rfl) :
    Writes i s (shiftFlags r c s) :=
  .status (by rw [hf]; exact (onlyFlags_setFlag (by simp) _ _).trans (onlyFlags_flagsZN (by simp) (by simp) _ _))

theorem Writes.bitTest {m : Byte} {s : State} (hf : writtenFlags i = [.z, .v, .n] := by rfl) :
    Writes i s { s with p := flagsBit s.p s.a m } :=
  .status (by rw [hf]; exact onlyFlags_flagsBit (by simp) (by simp) (by simp) _ _ _)

theorem Writes.withCarry {c : Bool} {f : State → State} {s : State} (hf : ∀ s, Writes i s (f s))
    (hc : .c ∈ writtenFlags i := by simp [writtenFlags]) : Writes i s (withCarry c f s) :=
  (Writes.setFlag hc).trans (hf _)

/-! #### Handlers -/

/-- A handler is within what `i` may write, at any place that is the accumulator only if `i` writes A. -/
def HandlerWrites (i : Instr) (f : Place → State → Except Fault State) : Prop :=
  ∀ pl s t, (pl = .acc → writesA i = true) → f pl s = .ok t → Writes i s t

/-- Only an operand that names the accumulator has it as its place. -/
theorem operandPlace_acc {op : Byte} {o : Operand} {s t : State} (h : operandPlace op o s = .ok (.acc, t)) :
    o = .acc := by
  simp only [operandPlace, bind_eq_ok] at h
  obtain ⟨⟨pl, c, s0⟩, e0, s1, e1, e2⟩ := h
  simp at e2; obtain ⟨rfl, -⟩ := e2
  cases o <;> simp [address, indexed, read16Zp_eq] at e0 ⊢
  case ind a =>
    simp only [bind_eq_ok] at e0
    obtain ⟨_, -, _, -, e3⟩ := e0
    simp at e3

/-- The rows with an accumulator operand are the four shifts', which write A (43_shift_rotate R232 to R235). -/
theorem writesA_of_accumulator {op : Byte} (hop : i.opcode = some op) (ho : i.operand = .acc) : writesA i = true := by
  cases i <;> simp only [Instr.operand, reduceCtorEq] at ho
  case asl | lsr | rol | ror => subst ho; rfl
  all_goals subst ho; simp [Instr.opcode, codeAt, Operand.mode, nopCodes] at hop

/-- Around its handler an instruction only computes an address, ticks and moves PC. -/
theorem Writes.perform {f : Place → State → Except Fault State} (hf : HandlerWrites i f) {s t : State}
    (e : perform i f s = .next t) : Writes i s t := by
  obtain ⟨op, pl, s1, s2, s3, hop, hp, h2, h3, rfl⟩ := perform_inv e
  have hacc : pl = .acc → writesA i = true := fun h => writesA_of_accumulator hop (operandPlace_acc (h ▸ hp))
  have h : Writes i s s3 :=
    ((Writes.of_sameCore (operandPlace_sameCore hp)).trans (hf pl s1 s2 hacc h2)).trans
      (.of_sameCore (busTick_sameCore h3))
  exact { h with }

theorem HandlerWrites.reading {f : Byte → State → State} (hf : ∀ v s, Writes i s (f v s)) :
    HandlerWrites i (reading f) := by
  intro pl s t _ e
  simp only [Machine.reading, bind_eq_ok] at e
  obtain ⟨⟨v, s1⟩, e1, e2⟩ := e
  simp at e2; subst e2
  exact (Writes.of_sameCore (loadPlace_sameCore e1)).trans (hf v s1)

theorem HandlerWrites.storing (f : State → Byte) : HandlerWrites i (storing f) :=
  fun _ _ _ hacc e => .storePlace hacc e

theorem HandlerWrites.pure1 {f : State → State} (hf : ∀ s, Writes i s (f s)) : HandlerWrites i (pure1 f) := by
  intro pl s t _ e
  simp [Machine.pure1] at e; exact e ▸ hf s

theorem HandlerWrites.modifying {f : Byte → Bool → Byte × Bool} {g : Byte → Bool → State → State}
    (hg : ∀ r c s, Writes i s (g r c s)) : HandlerWrites i (modifying f g) := by
  intro pl s t hacc e
  simp only [Machine.modifying, bind_eq_ok] at e
  obtain ⟨⟨v, s1⟩, e1, s2, e2, e3⟩ := e
  simp at e3; subst e3
  exact ((Writes.of_sameCore (loadPlace_sameCore e1)).trans (.storePlace hacc e2)).trans (hg _ _ s2)

theorem HandlerWrites.discardRead : HandlerWrites i discardRead := by
  intro pl s t _ e
  simp only [Machine.discardRead, bind_eq_ok] at e
  obtain ⟨⟨v, s1⟩, e1, e2⟩ := e
  simp at e2; subst e2
  exact .of_sameCore (loadPlace_sameCore e1)

theorem HandlerWrites.jumpHandler : HandlerWrites i jumpHandler := by
  intro pl s t _ e
  cases pl <;> simp [Machine.jumpHandler] at e <;> subst e <;> exact { Writes.refl s with }

theorem HandlerWrites.branchHandler (cond : Byte → Bool) (d : Byte) : HandlerWrites i (branchHandler cond d) := by
  intro pl s t _ e
  unfold Machine.branchHandler at e
  split at e
  · simp only [bind_eq_ok] at e
    obtain ⟨s1, e1, ⟨v, s2⟩, e2, s3, e3, e4⟩ := e
    have h2 := (busTick_sameCore e1).trans (memRead_sameCore e2)
    have h3 : SameCore s s3 := by
      unfold branchCrossTick at e3
      split at e3
      · exact h2.trans (busTick_sameCore e3)
      · simp at e3; exact e3 ▸ h2
    simp at e4; subst e4
    exact { Writes.of_sameCore h3 with }
  · simp at e; exact e ▸ .refl s

theorem HandlerWrites.callHandler (w : Word) (hsp : writesSp i = true := by rfl) : HandlerWrites i (callHandler w) := by
  intro pl s t _ e
  simp only [Machine.callHandler, bind_eq_ok] at e
  obtain ⟨s1, e1, e2⟩ := e
  simp at e2; subst e2
  exact { Writes.push16 hsp e1 with }

theorem HandlerWrites.returnHandler (hsp : writesSp i = true := by rfl) : HandlerWrites i returnHandler := by
  intro pl s t _ e
  simp only [Machine.returnHandler, bind_eq_ok] at e
  obtain ⟨⟨w, s1⟩, e1, e2⟩ := e
  simp at e2; subst e2
  exact { Writes.pop16 hsp e1 with }

theorem HandlerWrites.pullA (hsp : writesSp i = true := by rfl) (ha : writesA i = true := by rfl)
    (hz : .z ∈ writtenFlags i := by simp [writtenFlags]) (hn : .n ∈ writtenFlags i := by simp [writtenFlags]) :
    HandlerWrites i pullA := by
  intro pl s t _ e
  simp only [Machine.pullA, bind_eq_ok] at e
  obtain ⟨⟨v, s1⟩, e1, e2⟩ := e
  simp at e2; subst e2
  exact (Writes.pop hsp e1).trans (.putA ha hz hn)

/-- An instruction that pulls P may write every flag. -/
theorem onlyFlags_of_all {fs : List Flag} (hf : ∀ f, f ∈ fs) (p q : Byte) : OnlyFlags fs p q :=
  fun f h => absurd (hf f) h

theorem HandlerWrites.pullP (hsp : writesSp i = true := by rfl)
    (hf : ∀ f, f ∈ writtenFlags i := by intro f; cases f <;> simp [writtenFlags]) : HandlerWrites i pullP := by
  intro pl s t _ e
  simp only [Machine.pullP, bind_eq_ok] at e
  obtain ⟨⟨v, s1⟩, e1, e2⟩ := e
  simp at e2; subst e2
  exact (Writes.pop hsp e1).trans (.status (onlyFlags_of_all hf _ _))

theorem Writes.returnFromInterrupt {s t : State} (e : returnFromInterrupt s = .ok t) (hsp : writesSp i = true := by rfl)
    (hf : ∀ f, f ∈ writtenFlags i := by intro f; cases f <;> simp [writtenFlags]) : Writes i s t := by
  simp only [Machine.returnFromInterrupt, bind_eq_ok] at e
  obtain ⟨⟨v, s1⟩, e1, ⟨w, s2⟩, e2, e3⟩ := e
  simp at e3; subst e3
  have h1 : Writes i s { s1 with p := pulledStatus v } :=
    (Writes.pop hsp e1).trans (.status (onlyFlags_of_all hf _ _))
  exact { h1.trans (.pop16 hsp e2) with }

/-! #### Instructions -/

/-- Every instruction writes only the registers and flags its rule lists. -/
theorem exec_writes {s t : State} (e : exec i s = .next t) : Writes i s t := by
  cases i with
  | lda o => exact .perform (.reading fun _ _ => .putA) e
  | ldx o => exact .perform (.reading fun _ _ => .putX) e
  | ldy o => exact .perform (.reading fun _ _ => .putY) e
  | sta o => exact .perform (.storing _) e
  | stx o => exact .perform (.storing _) e
  | sty o => exact .perform (.storing _) e
  | tax => exact .perform (.pure1 fun _ => .putX) e
  | tay => exact .perform (.pure1 fun _ => .putY) e
  | txa => exact .perform (.pure1 fun _ => .putA) e
  | tya => exact .perform (.pure1 fun _ => .putA) e
  | tsx => exact .perform (.pure1 fun _ => .putX) e
  | txs => exact .perform (.pure1 fun _ => .setSp) e
  | adc o => exact .perform (.reading fun _ _ => .addA) e
  | sbc o => exact .perform (.reading fun _ _ => .addA) e
  | and o => exact .perform (.reading fun _ _ => .putA) e
  | ora o => exact .perform (.reading fun _ _ => .putA) e
  | eor o => exact .perform (.reading fun _ _ => .putA) e
  | cmp o => exact .perform (.reading fun _ _ => .compareWith) e
  | cpx o => exact .perform (.reading fun _ _ => .compareWith) e
  | cpy o => exact .perform (.reading fun _ _ => .compareWith) e
  | bit o => exact .perform (.reading fun _ _ => .bitTest) e
  | inc o => exact .perform (.modifying fun _ _ _ => .setZN) e
  | dec o => exact .perform (.modifying fun _ _ _ => .setZN) e
  | inx => exact .perform (.pure1 fun _ => .putX) e
  | iny => exact .perform (.pure1 fun _ => .putY) e
  | dex => exact .perform (.pure1 fun _ => .putX) e
  | dey => exact .perform (.pure1 fun _ => .putY) e
  | asl o => exact .perform (.modifying fun _ _ _ => .shiftFlags) e
  | lsr o => exact .perform (.modifying fun _ _ _ => .shiftFlags) e
  | rol o => exact .perform (.modifying fun _ _ _ => .shiftFlags) e
  | ror o => exact .perform (.modifying fun _ _ _ => .shiftFlags) e
  | jmp o => exact .perform .jumpHandler e
  | jsr a => exact .perform (.callHandler a) e
  | rts => exact .perform .returnHandler e
  | rti => exact .perform (fun _ _ _ _ e => .returnFromInterrupt e) e
  | bcc d => exact .perform (.branchHandler _ d) e
  | bcs d => exact .perform (.branchHandler _ d) e
  | beq d => exact .perform (.branchHandler _ d) e
  | bne d => exact .perform (.branchHandler _ d) e
  | bmi d => exact .perform (.branchHandler _ d) e
  | bpl d => exact .perform (.branchHandler _ d) e
  | bvc d => exact .perform (.branchHandler _ d) e
  | bvs d => exact .perform (.branchHandler _ d) e
  | brk => simp [exec, execBrk] at e; subst e; exact { Writes.refl s with }
  | nop => exact .perform (.pure1 .refl) e
  | pha => exact .perform (fun _ _ _ _ e => .push rfl e) e
  | pla => exact .perform .pullA e
  | php => exact .perform (fun _ _ _ _ e => .push rfl e) e
  | plp => exact .perform .pullP e
  | clc => exact .perform (.pure1 fun _ => .setFlag) e
  | sec => exact .perform (.pure1 fun _ => .setFlag) e
  | cli => exact .perform (.pure1 fun _ => .setFlag) e
  | sei => exact .perform (.pure1 fun _ => .setFlag) e
  | cld => exact .perform (.pure1 fun _ => .setFlag) e
  | sed => exact .perform (.pure1 fun _ => .setFlag) e
  | clv => exact .perform (.pure1 fun _ => .setFlag) e
  | lax o => exact .perform (.reading fun _ _ => .putAX) e
  | sax o => exact .perform (.storing _) e
  | dcp o => exact .perform (.modifying fun _ _ _ => .compareWith) e
  | isb o => exact .perform (.modifying fun _ _ _ => .addA) e
  | slo o => exact .perform (.modifying fun _ _ _ => .withCarry fun _ => .putA) e
  | rla o => exact .perform (.modifying fun _ _ _ => .withCarry fun _ => .putA) e
  | sre o => exact .perform (.modifying fun _ _ _ => .withCarry fun _ => .putA) e
  | rra o => exact .perform (.modifying fun _ _ _ => .withCarry fun _ => .addA) e
  | usbc v => exact .perform (.reading fun _ _ => .addA) e
  | unop op o => exact .perform .discardRead e
  | unsupported op =>
    simp only [exec, execUnsupported] at e
    split at e <;> simp at e
    subst e; exact { Writes.refl s with }

end

/-- Settles O48: `Writes` names the four registers' writers. -/
theorem registerWriters : Obligations.RegisterWriters := by
  intro i s t e
  obtain ⟨ha, hx, hy, hsp, -⟩ := exec_writes e
  exact ⟨ha, hx, hy, hsp⟩

/-- Settles O49: `Writes` keeps every flag outside the rule's list. -/
theorem flagWriters : Obligations.FlagWriters :=
  fun _ _ _ e => (exec_writes e).flags

end Sys2Proof.Machine

/-! ### Which states have a step, and what the per-step hook observes -/

namespace Sys2Proof.Machine

/-- `Peek` of a plain address is the byte there (20_memory R102). -/
theorem peek_plain {s : State} {d v : Byte} {a : Word} (h : plainByte s a = some v) : peek s d a = v := by
  unfold plainByte at h
  unfold peek
  cases hr : regionOf a <;> simp_all

/-- An instruction has one, two or three bytes (30_encoding R120). -/
theorem mode_length_cases (m : Mode) : m.length = 1 ∨ m.length = 2 ∨ m.length = 3 := by cases m <;> decide

/-- As many bytes as the first one's row has decode to one instruction, nothing left over. -/
theorem decode_whole {bs : List Byte} (h : bs.length = (decodeRow (bs.getD 0 0)).mode.length) :
    decode bs = .ok (decodeBytes (bs.getD 0 0) (bs.getD 1 0) (bs.getD 2 0), []) := by
  have hlen := mode_length_cases (decodeRow (bs.getD 0 0)).mode
  rw [← h] at hlen
  match bs, h, hlen with
  | [op], h, _ => simp [decode, ← show 1 = (decodeRow op).mode.length from h]
  | [op, b1], h, _ => simp [decode, ← show 2 = (decodeRow op).mode.length from h]
  | [op, b1, b2], h, _ => simp [decode, ← show 3 = (decodeRow op).mode.length from h]
  | [], _, hlen => simp at hlen
  | _ :: _ :: _ :: _ :: _, _, hlen => simp at hlen

theorem tracedBytes_length (s : State) (draws : Nat → Byte) :
    (tracedBytes s draws).length = (decodeRow (peek s (draws 0) s.pc)).mode.length := by
  simp [tracedBytes]

theorem tracedBytes_getElem (s : State) (draws : Nat → Byte) (k : Nat) (h : k < (tracedBytes s draws).length) :
    (tracedBytes s draws)[k] = peek s (draws k) (s.pc + BitVec.ofNat 16 k) := by
  simp [tracedBytes]

/-- The first byte the hook sees is the one `Peek` gives at PC. -/
theorem tracedBytes_head (s : State) (draws : Nat → Byte) :
    (tracedBytes s draws).getD 0 0 = peek s (draws 0) s.pc := by
  have hpos : 0 < (tracedBytes s draws).length := by
    rw [tracedBytes_length]
    have := mode_length_cases (decodeRow (peek s (draws 0) s.pc)).mode
    omega
  rw [List.getD_eq_getElem _ _ hpos, tracedBytes_getElem]
  simp

/-- The hook's bytes are one whole instruction, the one it disassembles (60_exceptions R381). -/
theorem traceRecord_decodes (s : State) (draws : Nat → Byte) :
    ∃ i, decode (traceRecord s draws).bytes = .ok (i, []) ∧ (traceRecord s draws).text = disassemble s.pc i :=
  ⟨_, decode_whole (by rw [traceRecord, tracedBytes_head, tracedBytes_length]), rfl⟩

/-- The hook is called in no idle iteration and in no NMI entry (40_step_and_addressing R141). -/
theorem hostStep_eq_none {s : State} (draws : Nat → Byte) (h : s.run ≠ .running ∨ s.ppu.nmi = .active) :
    hostStep draws s = none := by
  unfold hostStep iteration
  have hk : stepKind s ≠ .instruction := by
    unfold stepKind
    rcases h with hr | hn
    · split <;> simp_all
    · split <;> simp [hn]
  cases hs : stepKind s <;> simp_all

/-- In an instruction step the hook observes the state before the fetch (40_step_and_addressing R142). -/
theorem hostStep_instruction {s : State} (draws : Nat → Byte) (hr : s.run = .running) (hn : s.ppu.nmi = .inactive) :
    hostStep draws s = some (traceRecord s draws) := by
  simp [hostStep, iteration, stepKind, hr, hn]

/-- Settles O7, by the kind of the next iteration. -/
theorem onlyRunningSteps : Obligations.OnlyRunningSteps := by
  refine ⟨fun s h => ?_, fun s e h => ?_, fun s h => ?_, fun draws s h => hostStep_eq_none draws h,
    fun draws s hr hn => ?_, iteration_outcome, fun s d v a h => peek_plain h⟩
  · rw [step_idle (by simp [h])]; simp [idleStep, h]
  · rw [step_idle (by simp [h])]; simp [idleStep, h]
  · rw [step_idle (by simp [h])]; simp [idleStep, h]
  · exact ⟨traceRecord s draws, hostStep_instruction draws hr hn, rfl, rfl, rfl, rfl, rfl, rfl, rfl, rfl, rfl,
      tracedBytes_length s draws, tracedBytes_getElem s draws, traceRecord_decodes s draws⟩

end Sys2Proof.Machine

/-! ### The bus map: where an address stands, and what a read or a write does there (20_memory R61 to R71) -/

namespace Sys2Proof.Machine

/-! #### Addresses of each row -/

theorem regionOf_ram {a : Word} (h : a.toNat < 0x2000) : regionOf a = .ram (a.toNat % 0x800) := by
  simp only [regionOf]
  rw [if_pos h]

theorem regionOf_port {a : Word} (hl : 0x2000 ≤ a.toNat) (hu : a.toNat < 0x4000) : regionOf a = .port := by
  simp only [regionOf]
  rw [if_neg (by omega), if_pos hu]

theorem regionOf_oamDma {a : Word} (h : a.toNat = 0x4014) : regionOf a = .oamDma := by
  simp [regionOf, h]

theorem regionOf_joypad {a : Word} (h : a.toNat = 0x4016) : regionOf a = .joypad := by
  simp [regionOf, h]

theorem regionOf_apuAddress {a : Word} (hl : 0x4000 ≤ a.toNat) (hu : a.toNat < 0x4018) (hd : a.toNat ≠ 0x4014)
    (hj : a.toNat ≠ 0x4016) : regionOf a = .apu a.toNat := by
  simp only [regionOf]
  rw [if_neg (by omega), if_neg (by omega), if_neg hd, if_neg hj, if_pos hu]

theorem regionOf_unmapped {a : Word} (hl : 0x4018 ≤ a.toNat) (hu : a.toNat < 0x8000) : regionOf a = .unmapped := by
  simp only [regionOf]
  rw [if_neg (by omega), if_neg (by omega), if_neg (by omega), if_neg (by omega), if_neg (by omega), if_pos hu]

theorem regionOf_prg {a : Word} (h : 0x8000 ≤ a.toNat) : regionOf a = .prg a.toNat := by
  simp only [regionOf]
  rw [if_neg (by omega), if_neg (by omega), if_neg (by omega), if_neg (by omega), if_neg (by omega),
    if_neg (by omega)]

/-! #### Reads -/

theorem memRead_ram {s : State} {a : Word} (h : a.toNat < 0x2000) :
    memRead s a = .ok (Memory.read s.ram (a.toNat % 0x800), s) := by
  simp [memRead, regionOf_ram h]

/-- A read of a port is the port's, and the PPU it leaves. -/
theorem memRead_port {s : State} {a : Word} (hl : 0x2000 ≤ a.toNat) (hu : a.toNat < 0x4000) :
    memRead s a = (portRead s.cfg s.cart s.ppu a).map fun r => (r.1, { s with ppu := r.2 }) := by
  simp only [memRead, regionOf_port hl hu]
  cases portRead s.cfg s.cart s.ppu a <;> rfl

/-- A write-only port (20_memory R70). -/
theorem portRead_writeOnly {cfg : Config} {cart : Cart} {u : Ppu} {a : Word} (h : a.toNat % 8 ∈ [0, 1, 3, 5, 6]) :
    portRead cfg cart u a = .error (.memoryAccess .read a) := by
  simp only [List.mem_cons, List.not_mem_nil, or_false] at h
  rcases h with h | h | h | h | h <;> simp [portRead, portOf, h]

theorem memRead_writeOnly {s : State} {a : Word} (hl : 0x2000 ≤ a.toNat) (hu : a.toNat < 0x4000)
    (h : a.toNat % 8 ∈ [0, 1, 3, 5, 6]) : memRead s a = .error (.memoryAccess .read a) := by
  rw [memRead_port hl hu, portRead_writeOnly h]; rfl

theorem memRead_oamDma {s : State} {a : Word} (h : a.toNat = 0x4014) :
    memRead s a = .error (.memoryAccess .read a) := by
  simp [memRead, regionOf_oamDma h]

theorem memRead_joypad {s : State} {a : Word} (h : a.toNat = 0x4016) :
    memRead s a = .ok ((padRead s.pad).1, { s with pad := (padRead s.pad).2 }) := by
  simp [memRead, regionOf_joypad h]

/-- Under strobe the joypad gives button 0 and stays at index 0 (20_memory R88). -/
theorem padRead_strobe {p : Pad} (h : p.strobe = true) :
    padRead p = (byteOfBool (p.buttons.getLsbD 0), { p with index := 0 }) := by
  simp [padRead, h, bitOf]

/-- Past the eighth button the joypad gives 1 (20_memory R88). -/
theorem padRead_past {p : Pad} (h : p.strobe = false) (hi : 8 ≤ p.index) : padRead p = (0x01, p) := by
  simp [padRead, h, hi]

/-- The joypad shifts its buttons out, one a read (20_memory R88). -/
theorem padRead_shift {p : Pad} (h : p.strobe = false) (hi : p.index < 8) :
    padRead p = (byteOfBool (p.buttons.getLsbD p.index), { p with index := p.index + 1 }) := by
  simp [padRead, h, bitOf, Nat.not_le.2 hi]

theorem memRead_apu {s : State} {a : Word} (hl : 0x4000 ≤ a.toNat) (hu : a.toNat < 0x4018) (hd : a.toNat ≠ 0x4014)
    (hj : a.toNat ≠ 0x4016) : memRead s a = .ok (apuRead s a.toNat, s) := by
  simp [memRead, regionOf_apuAddress hl hu hd hj]

/-- What the APU's read mode makes of its storage (20_memory R65). -/
theorem apuRead_eq (s : State) (n : Nat) :
    apuRead s n = if s.cfg.apuReadMode = .stored then Memory.read s.apu n else 0x00 := by
  unfold apuRead
  cases s.cfg.apuReadMode <;> rfl

theorem memRead_unmapped {s : State} {a : Word} (hl : 0x4018 ≤ a.toNat) (hu : a.toNat < 0x8000) :
    memRead s a = .ok (0x00, s) := by
  simp [memRead, regionOf_unmapped hl hu]

theorem memRead_prg {s : State} {a : Word} (h : 0x8000 ≤ a.toNat) :
    memRead s a = .ok (Memory.read s.cart.prg.bytes (s.cart.mapper.offset (a.toNat - 0x8000)), s) := by
  simp [memRead, regionOf_prg h, prgByte]

/-- Settles O51, row by row. -/
theorem busReadMap : Obligations.BusReadMap := by
  intro s a
  refine ⟨memRead_ram, memRead_writeOnly, memRead_oamDma, fun h => ⟨fun hs => ?_, fun hs hi => ?_, fun hs hi => ?_⟩,
    fun hl hu hd hj => ?_, memRead_unmapped, fun h hm => ?_, fun h hm => ?_⟩
  · rw [memRead_joypad h, padRead_strobe hs]
  · rw [memRead_joypad h, padRead_past hs hi]
  · rw [memRead_joypad h, padRead_shift hs hi]
  · rw [memRead_apu hl hu hd hj, apuRead_eq]
  · rw [memRead_prg h, hm]; rfl
  · rw [memRead_prg h, hm]; rfl

/-! #### Writes -/

theorem memWrite_ram {s : State} {a : Word} {v : Byte} (h : a.toNat < 0x2000) :
    memWrite s a v = .ok { s with ram := Memory.write s.ram (a.toNat % 0x800) v } := by
  simp [memWrite, regionOf_ram h]

/-- A write of a port is the port's. -/
theorem memWrite_port {s : State} {a : Word} {v : Byte} (hl : 0x2000 ≤ a.toNat) (hu : a.toNat < 0x4000) :
    memWrite s a v = (portWrite s.cfg s.ppu a v).map fun u => { s with ppu := u } := by
  simp only [memWrite, regionOf_port hl hu]
  cases portWrite s.cfg s.ppu a v <;> rfl

/-- The read-only port (20_memory R71). -/
theorem portWrite_status {cfg : Config} {u : Ppu} {a : Word} {v : Byte} (h : a.toNat % 8 = 2) :
    portWrite cfg u a v = .error (.memoryAccess .write a) := by
  simp [portWrite, portOf, h]

/-- The OAM data port where the parameter makes its write an error (20_memory R71, 50_ppu R307). -/
theorem portWrite_oamData_fault {cfg : Config} {u : Ppu} {a : Word} {v : Byte} (h : a.toNat % 8 = 4)
    (hc : cfg.oamDataWrite = .fault) : portWrite cfg u a v = .error (.memoryAccess .write a) := by
  simp [portWrite, portOf, h, hc]

theorem memWrite_oamDma {s : State} {a : Word} {v : Byte} (h : a.toNat = 0x4014) : memWrite s a v = oamDma v s := by
  simp [memWrite, regionOf_oamDma h]

theorem memWrite_joypad {s : State} {a : Word} {v : Byte} (h : a.toNat = 0x4016) :
    memWrite s a v = .ok { s with pad := padWrite v s.pad } := by
  simp [memWrite, regionOf_joypad h]

theorem memWrite_apu {s : State} {a : Word} {v : Byte} (hl : 0x4000 ≤ a.toNat) (hu : a.toNat < 0x4018)
    (hd : a.toNat ≠ 0x4014) (hj : a.toNat ≠ 0x4016) :
    memWrite s a v = .ok { s with apu := Memory.write s.apu a.toNat v } := by
  simp [memWrite, regionOf_apuAddress hl hu hd hj]

theorem memWrite_unmapped {s : State} {a : Word} {v : Byte} (hl : 0x4018 ≤ a.toNat) (hu : a.toNat < 0x8000) :
    memWrite s a v = .ok s := by
  simp [memWrite, regionOf_unmapped hl hu]

theorem memWrite_prg {s : State} {a : Word} {v : Byte} (h : 0x8000 ≤ a.toNat) :
    memWrite s a v = .error (.memoryAccess .write a) := by
  simp [memWrite, regionOf_prg h]

/-- Settles O52, row by row. -/
theorem busWriteMap : Obligations.BusWriteMap := by
  intro s a v
  refine ⟨memWrite_ram, fun hl hu hp => ?_, fun hl hu hp hc => ?_, memWrite_joypad, memWrite_apu, memWrite_unmapped,
    memWrite_prg⟩
  · rw [memWrite_port hl hu, portWrite_status hp]; rfl
  · rw [memWrite_port hl hu, portWrite_oamData_fault hp hc]; rfl

/-! #### Mirrors

Only the address an access error names tells two mirrors of a port apart; the data port's own faults are none of
these errors. -/

/-- A nametable access raises only the model's four-screen fault (50_ppu R316). -/
theorem ntIndex_error {m : Mirroring} {n : Nat} {e : Fault} (h : ntIndex m n = .error e) :
    e = .fourScreenUnsupported := by
  unfold ntIndex at h
  split at h
  · simp at h
  · rename_i x hx
    cases m <;> simp only [ntBank] at hx
    case fourScreen => split at hx <;> simp at hx; simp at h; exact h ▸ hx.symm
    all_goals simp at hx

/-- A read of the PPU's address space raises no access error. -/
theorem ppuRead_ne_memoryAccess {cfg : Config} {cart : Cart} {u : Ppu} {a w : Word} {d : AccessDir} :
    ppuRead cfg cart u a ≠ .error (.memoryAccess d w) := by
  intro h
  simp only [ppuRead] at h
  repeat' split at h
  case h_2 x hx => simp [ntIndex_error hx] at h
  all_goals simp at h

/-- A write of the PPU's address space raises no access error. -/
theorem ppuWrite_ne_memoryAccess {cfg : Config} {u : Ppu} {a w : Word} {v : Byte} {d : AccessDir} :
    ppuWrite cfg u a v ≠ .error (.memoryAccess d w) := by
  intro h
  simp only [ppuWrite] at h
  repeat' split at h
  case h_2 x hx => simp [ntIndex_error hx] at h
  all_goals simp at h

theorem readData_ne_memoryAccess {cfg : Config} {cart : Cart} {u : Ppu} {w : Word} {d : AccessDir} :
    readData cfg cart u ≠ .error (.memoryAccess d w) := by
  unfold readData
  split
  · rename_i e he
    rintro ⟨⟩
    exact ppuRead_ne_memoryAccess he
  · split <;> simp

theorem writeData_ne_memoryAccess {cfg : Config} {u : Ppu} {v : Byte} {w : Word} {d : AccessDir} :
    writeData cfg v u ≠ .error (.memoryAccess d w) := by
  unfold writeData
  split
  · simp
  · rename_i e he
    rintro ⟨⟩
    exact ppuWrite_ne_memoryAccess he

/-- `y` answers what `x` answers, and raises `e'` where `x` raises `e`. -/
def AnswersAlike {α : Type} (e e' : Fault) (x y : Except Fault α) : Prop :=
  (∀ r, x = .ok r → y = .ok r) ∧ (x = .error e → y = .error e')

theorem AnswersAlike.of_ne {α : Type} {e e' : Fault} {x : Except Fault α} (h : x ≠ .error e) :
    AnswersAlike e e' x x :=
  ⟨fun _ hr => hr, fun he => absurd he h⟩

theorem AnswersAlike.of_errors {α : Type} {e e' : Fault} : AnswersAlike (α := α) e e' (.error e) (.error e') :=
  ⟨fun _ hr => by simp at hr, fun _ => rfl⟩

theorem AnswersAlike.map {α β : Type} {e e' : Fault} {x y : Except Fault α} (f : α → β) (h : AnswersAlike e e' x y) :
    AnswersAlike e e' (x.map f) (y.map f) := by
  obtain ⟨hok, herr⟩ := h
  cases x with
  | ok r => rw [hok r rfl]; exact .of_ne (by simp [Except.map])
  | error x =>
    refine ⟨fun r hr => by simp [Except.map] at hr, fun hx => ?_⟩
    simp only [Except.map, Except.error.injEq] at hx
    rw [herr (by rw [hx])]; rfl

/-- Two mirrors of a port read alike. -/
theorem portRead_mirror (cfg : Config) (cart : Cart) (u : Ppu) {a b : Word} (h : a.toNat % 8 = b.toNat % 8) :
    AnswersAlike (.memoryAccess .read a) (.memoryAccess .read b) (portRead cfg cart u a) (portRead cfg cart u b) := by
  unfold portRead portOf
  rw [← h]
  split
  · exact .of_ne (by simp)
  · exact .of_ne (by simp)
  · exact .of_ne readData_ne_memoryAccess
  · exact .of_errors

/-- Two mirrors of a port write alike. -/
theorem portWrite_mirror (cfg : Config) (u : Ppu) (v : Byte) {a b : Word} (h : a.toNat % 8 = b.toNat % 8) :
    AnswersAlike (.memoryAccess .write a) (.memoryAccess .write b) (portWrite cfg u a v) (portWrite cfg u b v) := by
  unfold portWrite portOf
  rw [← h]
  split
  case h_4 => cases cfg.oamDataWrite; exacts [.of_ne (by simp), .of_errors]
  case h_7 => exact .of_ne writeData_ne_memoryAccess
  case h_8 => exact .of_errors
  all_goals exact .of_ne (by simp)

/-- Settles O53: the decoder takes RAM addresses modulo 0x800 and port addresses modulo 8. -/
theorem addressMirrors : Obligations.AddressMirrors := by
  refine ⟨fun s a b v ha hb h => ⟨?_, ?_, fun t ht => ?_⟩, fun s a b v hal hau hbl hbu h => ?_⟩
  · rw [memRead_ram ha, memRead_ram hb, h]
  · rw [memWrite_ram ha, memWrite_ram hb, h]
  · rw [memWrite_ram ha] at ht
    simp at ht; subst ht
    rw [memRead_ram hb, ← h, Memory.read_write_same]
  · obtain ⟨hr, hre⟩ := (portRead_mirror s.cfg s.cart s.ppu h).map fun r => (r.1, { s with ppu := r.2 })
    obtain ⟨hw, hwe⟩ := (portWrite_mirror s.cfg s.ppu v h).map fun u => { s with ppu := u }
    rw [memRead_port hal hau, memRead_port hbl hbu, memWrite_port hal hau, memWrite_port hbl hbu]
    exact ⟨hr, hre, hw, hwe⟩

end Sys2Proof.Machine

/-! ### OAM DMA (20_memory R86, 50_ppu R325) -/

namespace Sys2Proof.Machine

/-- A write elsewhere than at an OAM address leaves its byte. -/
theorem read_oamWriteFrom_of_ne {start i k : Nat} {data : List Byte} {m : Memory}
    (h : ∀ j, j < data.length → k ≠ (start + (i + j)) % 256) :
    Memory.read (oamWriteFrom start i data m) k = Memory.read m k := by
  induction data generalizing i m with
  | nil => rfl
  | cons v t ih =>
    have h0 : k ≠ (start + i) % 256 := by simpa using h 0 (by simp)
    have ht : ∀ j, j < t.length → k ≠ (start + (i + 1 + j)) % 256 := fun j hj => by
      rw [Nat.add_assoc i 1 j, Nat.add_comm 1 j]
      exact h (j + 1) (by simpa using hj)
    rw [oamWriteFrom, ih ht, Memory.read_write_ne _ _ h0]

/-- Up to 256 bytes land at addresses of their own. -/
theorem read_oamWriteFrom {start i j : Nat} {data : List Byte} {m : Memory} (hlen : data.length ≤ 256)
    (h : j < data.length) : Memory.read (oamWriteFrom start i data m) ((start + (i + j)) % 256) = data[j] := by
  induction data generalizing i j m with
  | nil => simp at h
  | cons v t ih =>
    simp only [List.length_cons] at hlen h
    rw [oamWriteFrom]
    cases j with
    | zero => rw [read_oamWriteFrom_of_ne (fun j hj => by omega)]; simp
    | succ j =>
      rw [show i + (j + 1) = i + 1 + j by omega]
      exact ih (by omega) (by omega)

/-- The address after `a` and `i` more. -/
theorem add_one_add_ofNat (a : Word) (i : Nat) : a + 1 + BitVec.ofNat 16 i = a + BitVec.ofNat 16 (i + 1) := by
  rw [BitVec.ofNat_add, BitVec.add_assoc, BitVec.add_comm 1]
  rfl

theorem add_ofNat_zero (a : Word) : a + BitVec.ofNat 16 0 = a := BitVec.add_zero a

/-- A run of plain reads gives the bytes there and changes nothing. -/
theorem readRun_plain {s : State} {a : Word} {data : List Byte}
    (h : ∀ i (hi : i < data.length), plainByte s (a + BitVec.ofNat 16 i) = some data[i]) :
    readRun data.length a s = .ok (data, s) := by
  induction data generalizing a with
  | nil => rfl
  | cons v t ih =>
    have h0 : memRead s a = .ok (v, s) := memRead_plain (add_ofNat_zero a ▸ h 0 (by simp))
    have ht : readRun t.length (a + 1) s = .ok (t, s) := ih fun i hi => by
      rw [add_one_add_ofNat]
      exact h (i + 1) (by simpa using hi)
    simp only [List.length_cons, readRun, h0, ht, ok_bind]

/-- A run of reads raises what its first read that is not plain raises. -/
theorem readRun_error {s : State} {a : Word} {k j : Nat} {e : Fault} (hj : j < k)
    (hp : ∀ i, i < j → (plainByte s (a + BitVec.ofNat 16 i)).isSome = true)
    (he : memRead s (a + BitVec.ofNat 16 j) = .error e) : readRun k a s = .error e := by
  induction j generalizing a k with
  | zero =>
    obtain ⟨k, rfl⟩ : ∃ k', k = k' + 1 := ⟨k - 1, by omega⟩
    rw [add_ofNat_zero] at he
    rw [readRun, he]; rfl
  | succ j ih =>
    obtain ⟨k, rfl⟩ : ∃ k', k = k' + 1 := ⟨k - 1, by omega⟩
    obtain ⟨v, hv⟩ := Option.isSome_iff_exists.1 (hp 0 (by omega))
    have h0 : memRead s a = .ok (v, s) := memRead_plain (add_ofNat_zero a ▸ hv)
    have ht : readRun k (a + 1) s = .error e := ih (by omega)
      (fun i hi => by rw [add_one_add_ofNat]; exact hp (i + 1) (by omega)) (by rw [add_one_add_ofNat]; exact he)
    simp only [readRun, h0, ok_bind, ht]; rfl

/-- The transfer raises what its reads raise; the OAM is not written, since there is no state after it. -/
theorem oamDma_error {s : State} {v : Byte} {e : Fault} (h : readRun 256 (word16 v 0) s = .error e) :
    oamDma v s = .error e := by
  rw [oamDma, h]; rfl

/-- The transfer from a page of plain bytes. -/
theorem oamDma_plain {s : State} {v : Byte} {data : List Byte} (h : readRun 256 (word16 v 0) s = .ok (data, s)) :
    oamDma v s =
      if 0 < s.cfg.oamDmaExtraCycles then busTick { s with ppu := oamWriteAll data s.ppu } s.cfg.oamDmaExtraCycles
      else .ok { s with ppu := oamWriteAll data s.ppu } := by
  rw [oamDma, h]; rfl

/-- The addresses of a page. -/
theorem toNat_page (v : Byte) {i : Nat} (h : i < 256) :
    (word16 v 0 + BitVec.ofNat 16 i).toNat = 256 * v.toNat + i := by
  have hv := v.isLt
  have h0 : (0 : Byte).toNat = 0 := rfl
  rw [BitVec.toNat_add, toNat_word16, BitVec.toNat_ofNat, h0]
  omega

/-- The bytes of the pages outside the ports and page 0x40 are plain (20_memory R81). -/
theorem plainByte_isSome {s : State} {a : Word} (h : a.toNat < 0x2000 ∨ 0x4018 ≤ a.toNat) :
    (plainByte s a).isSome = true := by
  rcases h with h | h
  · simp [plainByte, regionOf_ram h]
  · by_cases hu : a.toNat < 0x8000
    · simp [plainByte, regionOf_unmapped h hu]
    · simp [plainByte, regionOf_prg (Nat.not_lt.1 hu)]

/-- Settles O54: the 256 reads give their bytes or the first error among them. -/
theorem oamDma_everyPage : Obligations.OamDma := by
  have hw : ∀ (s : State) (v : Byte), memWrite s 0x4014 v = oamDma v s := fun s v => memWrite_oamDma rfl
  refine ⟨fun u data hlen => ⟨rfl, fun i h => ?_⟩, fun s v data hlen h => ?_, fun s v hl hu => ?_, fun s => ?_,
    fun s v hv i hi => plainByte_isSome ?_⟩
  · have := read_oamWriteFrom (start := u.oamAddr.toNat) (i := 0) (m := u.oam) hlen.le h
    rwa [Nat.zero_add] at this
  · rw [hw, oamDma_plain (hlen ▸ readRun_plain h)]
  · have ha := toNat_page v (i := 0) (by omega)
    have hport : (word16 v 0 + BitVec.ofNat 16 0).toNat % 8 ∈ [0, 1, 3, 5, 6] := by
      rw [show (word16 v 0 + BitVec.ofNat 16 0).toNat % 8 = 0 by omega]; decide
    have he := memRead_writeOnly (s := s) (by omega) (by omega) hport
    rw [hw, oamDma_error (readRun_error (j := 0) (by omega) (fun i hi => absurd hi (by omega)) he), add_ofNat_zero]
  · have hp : ∀ i, i < 0x14 → (plainByte s (word16 0x40 0 + BitVec.ofNat 16 i)).isSome = true := fun i hi => by
      have ha : (word16 0x40 0 + BitVec.ofNat 16 i).toNat = 0x4000 + i := toNat_page 0x40 (by omega)
      rw [plainByte, regionOf_apuAddress (by omega) (by omega) (by omega) (by omega)]; rfl
    rw [hw, oamDma_error (readRun_error (j := 0x14) (by omega) hp (memRead_oamDma rfl))]
    rfl
  · rw [toNat_page v hi]
    omega

end Sys2Proof.Machine

/-! ### The cartridge: its load (20_memory R89 to R96), and that no step changes it (R99) -/

namespace Sys2Proof.Machine

/-- A loaded array holds the image's bytes from its start on. -/
theorem read_imgRom {img : List Byte} {start len k : Nat} (h : k < len) :
    Memory.read (imgRom img start len).bytes k = img.getD (start + k) 0 := by
  have hk := Memory.read_ofBytes ((img.drop start).take len) 0 k
  rw [Nat.zero_add] at hk
  rw [imgRom, hk]
  simp [List.getD_eq_getElem?_getD, h, Memory.unlisted]

/-- The version field as a number (20_memory R91). -/
theorem versionField_eq_zero_iff (b : Byte) : (b >>> 2) &&& 3 = 0 ↔ b.toNat / 4 % 4 = 0 := by
  have h : ((b >>> 2) &&& 3).toNat = b.toNat / 4 % 4 := by
    rw [BitVec.toNat_and, BitVec.toNat_ushiftRight, Nat.shiftRight_eq_div_pow]
    exact Nat.and_two_pow_sub_one_eq_mod (b.toNat / 4) 2
  rw [← BitVec.toNat_inj, h]; rfl

theorem mapperFor_unsupported {id : Byte} {n : Nat} (h : id ≠ 0 ∨ (n ≠ 1 ∧ n ≠ 2)) :
    mapperFor id n = .error (.unsupportedMapper id) := by
  unfold mapperFor
  by_cases hid : id = 0
  · obtain ⟨h1, h2⟩ := h.resolve_left (not_not_intro hid)
    simp [h1, h2]
  · rw [if_pos hid]

theorem mapperFor_supported {n : Nat} (h : n = 1 ∨ n = 2) :
    mapperFor 0 n = .ok (if n = 1 then .nrom128 else .nrom256) := by
  rcases h with rfl | rfl <;> rfl

/-- The cartridge an image's load leaves with a mapper (20_memory R93 to R96). -/
def loadedCart (img : List Byte) (m : Mapper) : Cart :=
  { prg := imgRom img (imgPrgStart img) (imgPrgLen img)
    chr := imgRom img (imgChrStart img) (imgChrLen img)
    mirroring := imgMirroring img
    mapperId := imgMapperId img
    trainer := imgTrainer img
    mapper := m }

theorem magicOk_iff (img : List Byte) : magicOk img = true ↔ img.take 4 = [0x4E, 0x45, 0x53, 0x1A] := by
  simp [magicOk]

section

variable {img : List Byte}

theorem load_badMagic (hm : img.take 4 ≠ [0x4E, 0x45, 0x53, 0x1A]) : Cart.load img = .error .badMagic := by
  have : magicOk img = false := Bool.eq_false_iff.2 fun h => hm ((magicOk_iff img).1 h)
  simp [Cart.load, this]

variable (hm : img.take 4 = [0x4E, 0x45, 0x53, 0x1A])
include hm

theorem load_shortHeader (hl : img.length < 16) : Cart.load img = .error .truncated := by
  simp [Cart.load, (magicOk_iff img).2 hm, hl]

variable (hl : 16 ≤ img.length)
include hl

theorem load_version (hv : (img.getD 7 0).toNat / 4 % 4 ≠ 0) : Cart.load img = .error .unsupportedVersion := by
  have hv' : (imgByte img 7 >>> 2) &&& 3 ≠ 0 := fun h => hv ((versionField_eq_zero_iff _).1 h)
  rw [Cart.load, (magicOk_iff img).2 hm, if_neg (by simp), if_neg (Nat.not_lt.2 hl), if_pos hv']

variable (hv : (img.getD 7 0).toNat / 4 % 4 = 0)
include hv

theorem load_truncated (ht : img.length < imgChrStart img + imgChrLen img) : Cart.load img = .error .truncated := by
  have hv' : (imgByte img 7 >>> 2) &&& 3 = 0 := (versionField_eq_zero_iff _).2 hv
  rw [Cart.load, (magicOk_iff img).2 hm, if_neg (by simp), if_neg (Nat.not_lt.2 hl), if_neg (not_not_intro hv'),
    if_pos ht]

/-- An image that passes the checks of its header and its length loads as its mapper says. -/
theorem load_checked (ht : imgChrStart img + imgChrLen img ≤ img.length) :
    Cart.load img = (mapperFor (imgMapperId img) (img.getD 4 0).toNat).map (loadedCart img) := by
  have hv' : (imgByte img 7 >>> 2) &&& 3 = 0 := (versionField_eq_zero_iff _).2 hv
  rw [Cart.load, (magicOk_iff img).2 hm, if_neg (by simp), if_neg (Nat.not_lt.2 hl), if_neg (not_not_intro hv'),
    if_neg (Nat.not_lt.2 ht), imgByte]
  cases mapperFor (imgMapperId img) (img.getD 4 0).toNat <;> rfl

end

/-- Settles O60, check by check. -/
theorem cartridgeLoad : Obligations.CartridgeLoad := by
  intro img prgStart prgLen chrStart chrLen id hps hpl hcs hcl hid
  obtain rfl : prgStart = imgPrgStart img := hps
  obtain rfl : prgLen = imgPrgLen img := hpl
  obtain rfl : chrStart = imgChrStart img := hcs
  obtain rfl : chrLen = imgChrLen img := hcl
  obtain rfl : id = imgMapperId img := hid
  refine ⟨load_badMagic, fun hm => ⟨load_shortHeader hm, fun hl => ⟨load_version hm hl, fun hv =>
    ⟨load_truncated hm hl hv, fun ht => ⟨fun hu => ?_, fun hid hn => ?_⟩⟩⟩⟩⟩
  · rw [load_checked hm hl hv ht, mapperFor_unsupported hu]; rfl
  · refine ⟨loadedCart img _, ?_, rfl, rfl, fun _ => read_imgRom, fun _ => read_imgRom, hid, rfl, rfl, rfl⟩
    rw [load_checked hm hl hv ht, hid, mapperFor_supported hn]; rfl

/-- `t` has the cartridge, the parameters and the mirroring of `s`. -/
structure SameCart (s t : State) : Prop where
  cart : t.cart = s.cart
  cfg : t.cfg = s.cfg
  mirroring : t.ppu.mirroring = s.ppu.mirroring

/-- A new PPU with the mirroring of the old one. -/
theorem SameCart.withPpu {s t : State} {u : Ppu} (h : SameCart s t) (hu : u.mirroring = t.ppu.mirroring) :
    SameCart s { t with ppu := u } :=
  { h with mirroring := hu.trans h.mirroring }

theorem sameCart_closed (s : State) : StepClosed (SameCart s) where
  regs := fun _ _ _ _ _ _ h => { h with }
  status := fun _ _ h _ => { h with }
  run := fun _ _ h => { h with }
  ram := fun _ _ _ _ h => { h with }
  apu := fun _ _ _ _ h => { h with }
  portRead := fun _ _ _ _ h e => h.withPpu (by rw [portRead_frame e])
  portWrite := fun _ _ _ _ h e => h.withPpu (by rw [portWrite_frame e])
  padRead := fun _ h => { h with }
  padWrite := fun _ _ h => { h with }
  oam := fun _ _ h => h.withPpu rfl
  clock := fun t n h => { h.withPpu (u := ppuTick (3 * n) t.ppu) (by rw [ppuTick_onlyClock (3 * n) t.ppu]) with }
  frame := fun _ _ h e => by rw [(hostFrame_spec e).1]; exact { h with }
  consume := fun _ h => h.withPpu rfl

/-- Settles O14: no elementary change of a step writes the cartridge, the parameters or the mirroring. -/
theorem stepKeepsCartridge : Obligations.StepKeepsCartridge := by
  intro s t e
  obtain ⟨hcart, hcfg, hmir⟩ := (sameCart_closed s).step ⟨rfl, rfl, rfl⟩ e
  refine ⟨hcart, hcfg, fun hs => ?_⟩
  rw [MirroringFixed, hmir, hcart]
  exact hs

end Sys2Proof.Machine

/-! ### The bus clock and the frame callback (20_memory R100, 60_exceptions R379, R380) -/

namespace Sys2Proof.Machine

theorem buttonsAfter_append (rs qs : List FrameReply) (b : Byte) :
    buttonsAfter (rs ++ qs) b = buttonsAfter qs (buttonsAfter rs b) := by
  induction rs generalizing b with
  | nil => rfl
  | cons r rs ih =>
    cases r with
    | failure _ => exact ih b
    | success w => cases w <;> exact ih _

/-- From `s` to `t` frame callbacks took the oldest replies, and the buttons are what these replies wrote. -/
def ButtonsFromReplies (s t : State) : Prop :=
  ∃ taken, s.frameReplies = taken ++ t.frameReplies ∧ t.pad.buttons = buttonsAfter taken s.pad.buttons

theorem ButtonsFromReplies.refl (s : State) : ButtonsFromReplies s s := ⟨[], rfl, rfl⟩

/-- A callback takes the oldest reply, if there is one, and leaves the buttons that reply wrote. -/
theorem hostFrame_buttons {s t : State} (h : hostFrame s = .ok t) : ButtonsFromReplies s t := by
  unfold hostFrame at h
  split at h
  · simp at h; subst h; exact .refl s
  · rename_i rest hr; simp at h; subst h; exact ⟨[.success none], hr, rfl⟩
  · rename_i b rest hr; simp at h; subst h; exact ⟨[.success (some b)], hr, rfl⟩
  · simp at h

theorem padRead_buttons (p : Pad) : (padRead p).2.buttons = p.buttons := by
  unfold padRead
  split
  · rfl
  · split <;> rfl

theorem ButtonsFromReplies.trans {s t w : State} (h : ButtonsFromReplies s t) (h' : ButtonsFromReplies t w) :
    ButtonsFromReplies s w := by
  obtain ⟨rs, hr, hb⟩ := h
  obtain ⟨qs, hq, hc⟩ := h'
  exact ⟨rs ++ qs, by rw [hr, hq, List.append_assoc], by rw [buttonsAfter_append, ← hb, hc]⟩

theorem buttonsFromReplies_closed (s : State) : StepClosed (ButtonsFromReplies s) where
  regs := fun _ _ _ _ _ _ h => h
  status := fun _ _ h _ => h
  run := fun _ _ h => h
  ram := fun _ _ _ _ h => h
  apu := fun _ _ _ _ h => h
  portRead := fun _ _ _ _ h _ => h
  portWrite := fun _ _ _ _ h _ => h
  padRead := fun t h => h.trans ⟨[], rfl, padRead_buttons t.pad⟩
  padWrite := fun _ _ h => h
  oam := fun _ _ h => h
  clock := fun _ _ h => h
  frame := fun _ _ h e => h.trans (hostFrame_buttons e)
  consume := fun _ h => h

/-- A rise of the interrupt signal calls the host. -/
theorem busTick_rise {s : State} {n : Nat} (hi : s.ppu.nmi = .inactive) (ha : (clock n s).ppu.nmi = .active) :
    busTick s n = hostFrame (clock n s) := by
  rw [busTick, if_pos ⟨hi, ha⟩]

/-- Settles O50: a tick is the clock and, on a rise of the signal, the callback, the only writer of the buttons. -/
theorem busTickEffect : Obligations.BusTickEffect := by
  refine ⟨fun n s c hc => ?_, fun s t h => ?_⟩
  · obtain rfl : c = clock n s := hc
    refine ⟨busTick_quiet, fun hi ha => ?_⟩
    rw [busTick_rise hi ha, hostFrame]
    refine ⟨fun hr => ?_, fun rest hr => ?_, fun b rest hr => ?_, fun why rest hr => ?_⟩
    all_goals simp [hr]
  · rcases h with h | ⟨i, h⟩
    · exact (buttonsFromReplies_closed s).step (.refl s) h
    · exact (buttonsFromReplies_closed s).exec (.refl s) h

end Sys2Proof.Machine

/-! ### What a push leaves unchanged (20_memory R75, R77) -/

namespace Sys2Proof.Machine

/-- `t` has the storages of `s` but the RAM `m`. -/
structure RamFrame (m : Memory) (s t : State) : Prop where
  ram : t.ram = m
  apu : t.apu = s.apu
  cart : t.cart = s.cart
  cfg : t.cfg = s.cfg
  ppu : OnlyClock s.ppu t.ppu

/-- An address reads as before unless it is a RAM address whose byte differs. -/
theorem RamFrame.plain {m : Memory} {s t : State} (h : RamFrame m s t) {b : Word}
    (hb : ∀ k, regionOf b = .ram k → Memory.read m k = Memory.read s.ram k) : plainByte t b = plainByte s b := by
  unfold plainByte apuRead
  rw [h.ram, h.apu, h.cart, h.cfg]
  cases hr : regionOf b <;> simp only
  rw [hb _ hr]

theorem RamFrame.ppuStorages {m : Memory} {s t : State} (h : RamFrame m s t) :
    t.ppu.vram = s.ppu.vram ∧ t.ppu.palette = s.ppu.palette ∧ t.ppu.oam = s.ppu.oam := by
  rw [h.ppu]; exact ⟨rfl, rfl, rfl⟩

/-- Around a handler that writes RAM, SP and PC, an instruction without a memory operand only ticks. -/
theorem perform_ramFrame {i : Instr} {f : Place → State → Except Fault State} {s t : State} {pl : Place} {m : Memory}
    {sp : Byte} {pc : Word} (ha : address i.operand s = .ok (pl, false, s))
    (hf : f pl s = .ok { s with ram := m, sp := sp, pc := pc }) (e : perform i f s = .next t) : RamFrame m s t := by
  obtain ⟨op, pl', s1, s2, s3, -, hp, h2, h3, rfl⟩ := perform_inv e
  rw [operandPlace_plain ha] at hp
  simp at hp
  obtain ⟨rfl, rfl⟩ := hp
  rw [hf] at h2
  simp at h2; subst h2
  obtain ⟨hcore, hclock, -⟩ := (busTick_spec h3).1
  exact ⟨by rw [hcore], by rw [hcore], by rw [hcore], by rw [hcore], hclock⟩

/-- PHA and PHP push one byte. -/
theorem exec_push_ramFrame {i : Instr} {s t : State} (hi : i = .pha ∨ i = .php) (e : exec i s = .next t) :
    ∃ v, RamFrame (Memory.write s.ram (256 + s.sp.toNat) v) s t := by
  rcases hi with rfl | rfl
  · simp only [exec, execPha] at e
    exact ⟨s.a, perform_ramFrame rfl (push_eq s s.a) e⟩
  · simp only [exec, execPhp] at e
    exact ⟨pushedByPhp s.p, perform_ramFrame rfl (push_eq s (pushedByPhp s.p)) e⟩

/-- JSR pushes two bytes. -/
theorem exec_jsr_ramFrame {a : Word} {s t : State} (e : exec (.jsr a) s = .next t) :
    ∃ v w, RamFrame (Memory.write (Memory.write s.ram (256 + s.sp.toNat) v) (256 + (s.sp - 1).toNat) w) s t := by
  simp only [exec, execJsr] at e
  exact ⟨hiByte (s.pc + 1), loByte (s.pc + 1), perform_ramFrame rfl (by rw [callHandler, push16_eq]; rfl) e⟩

/-- Settles O47: what is pushed stands at `0x0100 + SP`, and a second byte at the place below. -/
theorem pushFrame : Obligations.PushFrame := by
  intro i s t e hi
  suffices h : ∃ m, RamFrame m s t ∧ ∀ k, k ≠ 0x100 + s.sp.toNat →
      ((∃ a, i = .jsr a) → k ≠ 0x100 + (s.sp - 1).toNat) → Memory.read m k = Memory.read s.ram k by
    obtain ⟨m, hm, hread⟩ := h
    obtain ⟨hv, hp, ho⟩ := hm.ppuStorages
    refine ⟨fun b h1 h2 => hm.plain fun k hk => hread k ?_ fun hj => ?_, hv, hp, ho, hm.cart⟩
    · rintro rfl; exact h1 hk
    · rintro rfl; exact h2 hj hk
  rcases or_assoc.2 hi with hi | ⟨a, rfl⟩
  · obtain ⟨v, h⟩ := exec_push_ramFrame hi e
    exact ⟨_, h, fun k hk _ => Memory.read_write_ne _ v hk⟩
  · obtain ⟨v, w, h⟩ := exec_jsr_ramFrame e
    exact ⟨_, h, fun k hk hk' => by
      rw [Memory.read_write_ne _ w (hk' ⟨a, rfl⟩), Memory.read_write_ne _ v hk]⟩

end Sys2Proof.Machine

/-! ### Encoding and decoding (30_encoding R120 to R129) -/

namespace Sys2Proof.Machine

/-! #### What decodes -/

/-- Of the two bytes after the opcode an operand has those its mode's length takes (30_encoding R121 to R123). -/
theorem bytes_operandOf (m : Mode) (b1 b2 : Byte) : (operandOf m b1 b2).bytes = [b1, b2].take (m.length - 1) := by
  cases m <;> simp [operandOf, Operand.bytes, Mode.length]

theorem decode_opcode_bytes (op b1 b2 : Byte) (rest : List Byte) :
    decode (op :: (operandOf (decodeRow op).mode b1 b2).bytes ++ rest) = .ok (decodeBytes op b1 b2, rest) := by
  rw [bytes_operandOf]
  cases hm : (decodeRow op).mode <;> simp [decode, decodeBytes, hm, Mode.length, operandOf]

/-- What decodes is an opcode byte and the operand bytes of its row's mode. -/
theorem decode_eq_ok_iff {bs rest : List Byte} {i : Instr} : decode bs = .ok (i, rest) ↔
    ∃ op b1 b2, bs = op :: (operandOf (decodeRow op).mode b1 b2).bytes ++ rest ∧ i = decodeBytes op b1 b2 := by
  constructor
  · intro h
    cases bs with
    | nil => simp [decode] at h
    | cons op t =>
      simp only [decode] at h
      split at h
      next hl =>
        cases h
        exact ⟨op, 0, 0, by simp [bytes_operandOf, hl], rfl⟩
      next b1 _ hl =>
        cases h
        exact ⟨op, b1, 0, by simp [bytes_operandOf, hl], rfl⟩
      next b1 b2 _ hl =>
        cases h
        exact ⟨op, b1, b2, by simp [bytes_operandOf, hl], rfl⟩
      next => cases h
  · rintro ⟨op, b1, b2, rfl, rfl⟩
    exact decode_opcode_bytes op b1 b2 rest

/-- Bytes after a decoded instruction are left over (30_encoding R120). -/
theorem decode_append {bs r : List Byte} {i : Instr} (rest : List Byte) (h : decode bs = .ok (i, r)) :
    decode (bs ++ rest) = .ok (i, r ++ rest) := by
  obtain ⟨op, b1, b2, rfl, rfl⟩ := decode_eq_ok_iff.1 h
  rw [List.append_assoc, decode_opcode_bytes]

/-! #### From instruction to bytes and back -/

open Laws in
/-- The instructions together: each is decoded from its encoding. -/
theorem decode_encode : ∀ i : Instr, EncodeDecode.Statement i
  | .lda o => EncodeDecode.lda o
  | .ldx o => EncodeDecode.ldx o
  | .ldy o => EncodeDecode.ldy o
  | .sta o => EncodeDecode.sta o
  | .stx o => EncodeDecode.stx o
  | .sty o => EncodeDecode.sty o
  | .tax => EncodeDecode.tax
  | .tay => EncodeDecode.tay
  | .txa => EncodeDecode.txa
  | .tya => EncodeDecode.tya
  | .tsx => EncodeDecode.tsx
  | .txs => EncodeDecode.txs
  | .adc o => EncodeDecode.adc o
  | .sbc o => EncodeDecode.sbc o
  | .and o => EncodeDecode.and o
  | .ora o => EncodeDecode.ora o
  | .eor o => EncodeDecode.eor o
  | .cmp o => EncodeDecode.cmp o
  | .cpx o => EncodeDecode.cpx o
  | .cpy o => EncodeDecode.cpy o
  | .bit o => EncodeDecode.bit o
  | .inc o => EncodeDecode.inc o
  | .dec o => EncodeDecode.dec o
  | .inx => EncodeDecode.inx
  | .iny => EncodeDecode.iny
  | .dex => EncodeDecode.dex
  | .dey => EncodeDecode.dey
  | .asl o => EncodeDecode.asl o
  | .lsr o => EncodeDecode.lsr o
  | .rol o => EncodeDecode.rol o
  | .ror o => EncodeDecode.ror o
  | .jmp o => EncodeDecode.jmp o
  | .jsr a => EncodeDecode.jsr a
  | .rts => EncodeDecode.rts
  | .rti => EncodeDecode.rti
  | .bcc d => EncodeDecode.bcc d
  | .bcs d => EncodeDecode.bcs d
  | .beq d => EncodeDecode.beq d
  | .bne d => EncodeDecode.bne d
  | .bmi d => EncodeDecode.bmi d
  | .bpl d => EncodeDecode.bpl d
  | .bvc d => EncodeDecode.bvc d
  | .bvs d => EncodeDecode.bvs d
  | .brk => EncodeDecode.brk
  | .nop => EncodeDecode.nop
  | .pha => EncodeDecode.pha
  | .pla => EncodeDecode.pla
  | .php => EncodeDecode.php
  | .plp => EncodeDecode.plp
  | .clc => EncodeDecode.clc
  | .sec => EncodeDecode.sec
  | .cli => EncodeDecode.cli
  | .sei => EncodeDecode.sei
  | .cld => EncodeDecode.cld
  | .sed => EncodeDecode.sed
  | .clv => EncodeDecode.clv
  | .lax o => EncodeDecode.lax o
  | .sax o => EncodeDecode.sax o
  | .dcp o => EncodeDecode.dcp o
  | .isb o => EncodeDecode.isb o
  | .slo o => EncodeDecode.slo o
  | .rla o => EncodeDecode.rla o
  | .sre o => EncodeDecode.sre o
  | .rra o => EncodeDecode.rra o
  | .usbc v => EncodeDecode.usbc v
  | .unop op o => EncodeDecode.unop op o
  | .unsupported op => EncodeDecode.unsupported op

/-- Settles O1: an encoding decodes to its instruction alone, so also with bytes after it. -/
theorem decodeOfEncode : Obligations.DecodeOfEncode :=
  fun i rest h => decode_append rest (decode_encode i h)

/-! #### From bytes to instruction and back -/

/-- Cell `r` of the opcode map stands at `op` as the tables of files 41 to 46 have it: what it builds is well formed,
carries the operand given and has the opcode byte `op`. -/
structure CellOf (op : Byte) (r : Row) : Prop where
  wellFormed (b1 b2 : Byte) : (r.build (operandOf r.mode b1 b2)).wellFormed = true
  operand (b1 b2 : Byte) : (r.build (operandOf r.mode b1 b2)).operand = operandOf r.mode b1 b2
  opcode (b1 b2 : Byte) : (r.build (operandOf r.mode b1 b2)).opcode = some op

/-- The opcode map (30_encoding R126) agrees with the encoding tables, cell by cell. -/
theorem mapRow_cellOf {n k : Nat} (hn : n < 16) (hk : k < 16) :
    CellOf (BitVec.ofNat 8 (16 * n + k)) ((mapRow n).getD k (noRow (BitVec.ofNat 8 (16 * n + k)))) := by
  interval_cases n <;> interval_cases k <;> exact ⟨fun _ _ => rfl, fun _ _ => rfl, fun _ _ => rfl⟩

theorem decodeRow_cellOf (op : Byte) : CellOf op (decodeRow op) := by
  have hop : BitVec.ofNat 8 (16 * (op.toNat / 16) + op.toNat % 16) = op := by
    rw [Nat.div_add_mod, BitVec.ofNat_toNat, BitVec.setWidth_eq]
  have h := mapRow_cellOf (n := op.toNat / 16) (k := op.toNat % 16) (by omega) (by omega)
  rwa [hop] at h

theorem decodeBytes_wellFormed (op b1 b2 : Byte) : (decodeBytes op b1 b2).wellFormed = true :=
  (decodeRow_cellOf op).wellFormed b1 b2

/-- A decoded instruction is encoded as its opcode byte and the operand bytes its mode takes (30_encoding R129). -/
theorem encode_decodeBytes (op b1 b2 : Byte) :
    encode (decodeBytes op b1 b2) = op :: (operandOf (decodeRow op).mode b1 b2).bytes := by
  simp only [encode, decodeBytes, (decodeRow_cellOf op).opcode, (decodeRow_cellOf op).operand]

/-- Settles O2: what decodes is an opcode byte and its operand bytes, and their instruction's encoding is both. -/
theorem encodeOfDecode : Obligations.EncodeOfDecode := by
  intro bs rest i h
  obtain ⟨op, b1, b2, rfl, rfl⟩ := decode_eq_ok_iff.1 h
  exact ⟨decodeBytes_wellFormed op b1 b2, by rw [encode_decodeBytes]⟩

/-- The encoding of a decoded instruction is what its mode's length takes of the opcode byte and the two after it. -/
theorem encode_decodeBytes_eq_take (op b1 b2 : Byte) :
    encode (decodeBytes op b1 b2) = [op, b1, b2].take (decodeRow op).mode.length := by
  rw [encode_decodeBytes, bytes_operandOf]
  rcases mode_length_cases (decodeRow op).mode with h | h | h <;> simp [h]

/-- Settles O3, by the three lengths a mode can have. -/
theorem encodingLength : Obligations.EncodingLength := by
  intro op b1 b2
  have hlen := mode_length_cases (decodeRow op).mode
  refine ⟨?_, by simpa using hlen, by rw [encode_decodeBytes]; rfl, decodeBytes op b1 b2, ?_⟩
  · rw [encode_decodeBytes_eq_take, List.length_take]
    simp only [List.length_cons, List.length_nil]
    omega
  · refine decode_eq_ok_iff.2 ⟨op, b1, b2, ?_, rfl⟩
    rw [← encode_decodeBytes, encode_decodeBytes_eq_take, List.take_append_drop]

/-- Settles O4: each sample is evaluated. -/
theorem sampleWordsDecode : Obligations.SampleWordsDecode :=
  ⟨rfl, rfl, rfl, rfl, rfl, rfl, rfl, rfl, rfl, rfl, rfl, rfl⟩

/-! #### The unsupported codes -/

/-- The opcode map has no row at any of the 25 codes (30_encoding R127). -/
theorem decodeRow_unsupported {op : Byte} (h : op ∈ unsupportedCodes) : decodeRow op = noRow op := by
  have hall : ∀ c ∈ unsupportedCodes, decodeRow c = noRow c := by
    simp only [unsupportedCodes, List.cons_append, List.nil_append, List.forall_mem_cons, List.not_mem_nil,
      false_imp_iff, implies_true, and_true]
    and_intros <;> rfl
  exact hall op h

/-- The fetch of an implied instruction reads its opcode byte alone (40_step_and_addressing R143, R144). -/
theorem fetch_implied {s s' : State} {op : Byte} (hr : memRead s s.pc = .ok (op, s'))
    (hm : (decodeRow op).mode = .imp) :
    fetch s = .ok (decodeBytes op 0 0, { s' with pc := s.pc + 1 }) := by
  have hpc : s'.pc = s.pc := by rw [memRead_sameCore hr]
  simp [fetch, hr, hm, hpc]

theorem exec_unsupported {op : Byte} (s : State) (h : op ∈ unsupportedCodes) :
    exec (.unsupported op) s = .next { s with run := .failed (.unsupportedOpcode op) } := by
  simp [exec, execUnsupported, Instr.opcode, h]

/-- Settles O5: the fetch reads the opcode byte alone, and the instruction writes the run state alone. -/
theorem unsupportedEndsRun : Obligations.UnsupportedEndsRun := by
  refine ⟨fun _ => Iff.rfl, fun op s h => exec_unsupported s h, fun op s s' h hr hn hread => ?_⟩
  have hrow := decodeRow_unsupported h
  have hdec : decodeBytes op 0 0 = .unsupported op := by rw [decodeBytes, hrow]; rfl
  rw [step_instruction hr hn, instructionStep, fetch_implied hread (by rw [hrow]; rfl), hdec]
  exact exec_unsupported _ h

end Sys2Proof.Machine

/-! ### The primitives of a step as numbers (40_step_and_addressing R163 to R170) -/

namespace Sys2Proof.Machine

/-- Bit 7 is the sign: set from 128 on. -/
theorem bitOf_seven (v : Byte) : bitOf v 7 = decide (128 ≤ v.toNat) := by
  rw [bitOf, ← BitVec.msb_eq_getLsbD_last v, BitVec.msb_eq_decide]

/-- Bit 0 is the parity. -/
theorem bitOf_zero (v : Byte) : bitOf v 0 = decide (v.toNat % 2 = 1) := Nat.testBit_zero _

theorem toNat_byteOfBool (b : Bool) : (byteOfBool b).toNat = b.toNat := by cases b <;> rfl

/-- Bytes with no bit in common are joined by adding them. -/
theorem toNat_or_of_lt {x y : Byte} (i : Nat) (hx : x.toNat % 2 ^ i = 0) (hy : y.toNat < 2 ^ i) :
    (x ||| y).toNat = x.toNat + y.toNat := by
  have hdiv : 2 ^ i * (x.toNat / 2 ^ i) = x.toNat := Nat.mul_div_cancel' (Nat.dvd_of_mod_eq_zero hx)
  rw [BitVec.toNat_or, ← hdiv, Nat.two_pow_add_eq_or_of_lt hy]

theorem toNat_shiftLeft_one (v : Byte) : (v <<< 1).toNat = v.toNat * 2 % 256 := by
  rw [BitVec.toNat_shiftLeft, Nat.shiftLeft_eq]

theorem toNat_shiftRight_one (v : Byte) : (v >>> 1).toNat = v.toNat / 2 := by
  rw [BitVec.toNat_ushiftRight, Nat.shiftRight_eq_div_pow]

/-- A rotate left doubles and puts the carry at the free end. -/
theorem toNat_rolFn (v : Byte) (c : Bool) : (rolFn v c).1.toNat = (v.toNat * 2 + c.toNat) % 256 := by
  have hc := c.toNat_lt
  rw [rolFn, toNat_or_of_lt 1 (by rw [toNat_shiftLeft_one]; omega) (by rwa [toNat_byteOfBool]), toNat_shiftLeft_one,
    toNat_byteOfBool]
  omega

/-- A rotate right halves and puts the carry at the free end. -/
theorem toNat_rorFn (v : Byte) (c : Bool) : (rorFn v c).1.toNat = v.toNat / 2 + 128 * c.toNat := by
  have hv := v.isLt
  have hc : (byteOfBool c <<< 7).toNat = 128 * c.toNat := by cases c <;> rfl
  rw [rorFn, BitVec.or_comm, toNat_or_of_lt 7 (by rw [hc]; omega) (by rw [toNat_shiftRight_one]; omega), hc,
    toNat_shiftRight_one, Nat.add_comm]

/-- Settles O23: a shift left doubles, a shift right halves, and the bit shifted out is the sign or the parity. -/
theorem shiftFunctions : Obligations.ShiftFunctions := by
  intro v c
  refine ⟨⟨toNat_shiftLeft_one v, bitOf_seven v⟩, ⟨toNat_shiftRight_one v, bitOf_zero v⟩,
    ⟨toNat_rolFn v c, bitOf_seven v⟩, ⟨toNat_rorFn v c, bitOf_zero v⟩, BitVec.toNat_add v 1, ?_⟩
  rw [decFn, BitVec.toNat_sub, show (1 : Byte).toNat = 1 from rfl]
  omega

/-- Settles O19: Z and N are the two flags written. -/
theorem setZNFlags : Obligations.SetZNFlags :=
  fun v s => ⟨getFlag_flagsZN s.p v .z, getFlag_flagsZN s.p v .n, onlyFlags_flagsZN (by simp) (by simp) _ _, rfl⟩

/-- Settles O22: the difference is 0 when the operands are equal, and its sign is read off its value. -/
theorem compareFlags : Obligations.CompareFlags := by
  intro reg m s
  have hm := m.isLt
  have hsub : (reg s - m).toNat = (256 + (reg s).toNat - m.toNat) % 256 := by rw [BitVec.toNat_sub]; omega
  refine ⟨getFlag_flagsCompare _ _ _ .c, ?_, ?_, onlyFlags_flagsCompare (by simp) (by simp) (by simp) _ _ _, rfl⟩
  · rw [compareWith, getFlag_flagsCompare]
    exact decide_eq_decide.2 sub_eq_zero
  · rw [compareWith, getFlag_flagsCompare, bitOf_seven, hsub]

/-! #### Addition -/

theorem toNat_addResult (a m : Byte) (c : Bool) : (addResult a m c).toNat = (a.toNat + m.toNat + c.toNat) % 256 :=
  BitVec.toNat_ofNat _ 8

/-- The overflow flag: both operands' signs differ from the result's. -/
theorem getFlag_flagsAdd_v (p a m : Byte) :
    getFlag (flagsAdd p a m) .v =
      ((bitOf a 7 != bitOf (addResult a m (getFlag p .c)) 7) && (bitOf m 7 != bitOf (addResult a m (getFlag p .c)) 7)) := by
  simp [bitOf]

/-- `Add` computes its flags whatever P.D is, and leaves it (40_step_and_addressing R169). -/
theorem flagsAdd_setFlag_d (p a m : Byte) (b : Bool) :
    flagsAdd (setFlag p .d b) a m = setFlag (flagsAdd p a m) .d b := by
  apply status_ext
  intro f
  cases f <;> simp

/-- Settles O20: the result and each flag of `Add`, none of which reads P.D. -/
theorem addBinary : Obligations.AddBinary := by
  refine ⟨fun m s => ⟨toNat_addResult _ _ _, getFlag_flagsAdd _ _ _ .c, getFlag_flagsAdd_v _ _ _,
    getFlag_flagsAdd _ _ _ .z, getFlag_flagsAdd _ _ _ .n,
    onlyFlags_flagsAdd (by simp) (by simp) (by simp) (by simp) _ _ _, rfl⟩, fun m b s => ⟨?_, ?_⟩⟩
  · simp [addA]
  · exact flagsAdd_setFlag_d s.p s.a m b

/-- The signed value of a byte. -/
theorem toInt_eq (v : Byte) : v.toInt = if v.toNat < 128 then (v.toNat : Int) else v.toNat - 256 := by
  rw [BitVec.toInt_eq_toNat_cond]
  split <;> split <;> omega

theorem toNat_complement (v : Byte) : (~~~v).toNat = 255 - v.toNat := BitVec.toNat_not

/-- The complement's signed value. -/
theorem toInt_complement (v : Byte) : (~~~v).toInt = - v.toInt - 1 := by
  have hv := v.isLt
  rw [toInt_eq, toInt_eq, toNat_complement]
  split <;> split <;> omega

/-- V tells that the signed sum does not fit a signed byte. -/
theorem getFlag_flagsAdd_v_signed (p a m : Byte) :
    getFlag (flagsAdd p a m) .v = !fitsSigned (a.toInt + m.toInt + (getFlag p .c).toNat) := by
  have ha := a.isLt
  have hm := m.isLt
  have hc := (getFlag p .c).toNat_lt
  rw [getFlag_flagsAdd_v, bitOf_seven, bitOf_seven, bitOf_seven, toNat_addResult, toInt_eq, toInt_eq, fitsSigned]
  generalize (getFlag p .c).toNat = c at hc ⊢
  rw [Bool.eq_iff_iff]
  -- what is left is arithmetic once the operands' signs are known
  simp only [Bool.and_eq_true, bne_iff_ne, ne_eq, decide_eq_decide, Bool.not_eq_true', Bool.and_eq_false_iff,
    decide_eq_false_iff_not]
  by_cases h1 : a.toNat < 128 <;> by_cases h2 : m.toNat < 128 <;> simp only [h1, h2, if_true, if_false] <;> omega

/-- Settles O21: the complement of `M` stands for `255 - M` without sign and for `-M - 1` with one. -/
theorem addAsArithmetic : Obligations.AddAsArithmetic := by
  intro m s
  have hm := m.isLt
  have hc := (getFlag s.p .c).toNat_lt
  refine ⟨getFlag_flagsAdd_v_signed _ _ _, ?_, ?_, ?_⟩
  · rw [addA, toNat_addResult, toNat_complement]
    omega
  · rw [addA, getFlag_flagsAdd, addSum, toNat_complement, decide_eq_decide]
    omega
  · rw [addA, getFlag_flagsAdd_v_signed, toInt_complement]
    congr 2
    omega

/-! #### The clock -/

theorem cyclesFrom_closed (n : Nat) : StepClosed fun s => n ≤ s.cycles where
  regs := fun _ _ _ _ _ _ h => h
  status := fun _ _ h _ => h
  run := fun _ _ h => h
  ram := fun _ _ _ _ h => h
  apu := fun _ _ _ _ h => h
  portRead := fun _ _ _ _ h _ => h
  portWrite := fun _ _ _ _ h _ => h
  padRead := fun _ h => h
  padWrite := fun _ _ h => h
  oam := fun _ _ h => h
  clock := fun _ k h => Nat.le_add_right_of_le (k := k) h
  frame := fun _ _ h e => by rw [(hostFrame_spec e).1]; exact h
  consume := fun _ h => h

/-- Settles O17: a tick adds cycles, and nothing else of a step writes them. -/
theorem stepCyclesGrow : Obligations.StepCyclesGrow :=
  fun s _ => (cyclesFrom_closed s.cycles).step le_rfl

end Sys2Proof.Machine

/-! ### Addressing (40_step_and_addressing R148 to R162, R166) -/

namespace Sys2Proof.Machine

/-! #### The effective address -/

/-- In the modes with an effective address, the address computation gives it, with its page cross, and changes nothing. -/
theorem address_of_effectiveAddr {o : Operand} {s : State} {a : Word} (h : effectiveAddr o s = some a) :
    address o s = .ok (.mem a, crossesPage o s, s) := by
  cases o <;> simp only [effectiveAddr, Option.some.injEq, reduceCtorEq] at h <;> subst h
  all_goals simp [address, indexed, read16Zp_eq, crossesPage, indexBase, effectiveAddr]

theorem zext16_eq_ofNat (v : Byte) : zext16 v = BitVec.ofNat 16 v.toNat :=
  (BitVec.ofNat_toNat 16 v).symm

theorem toNat_zext16 (v : Byte) : (zext16 v).toNat = v.toNat :=
  BitVec.toNat_setWidth_of_le (by decide)

/-- An indexed address as a number (40_step_and_addressing R155, R156). -/
theorem add_zext16 (a : Word) (v : Byte) : a + zext16 v = BitVec.ofNat 16 (a.toNat + v.toNat) := by
  rw [BitVec.ofNat_add, BitVec.ofNat_toNat, BitVec.setWidth_eq, zext16_eq_ofNat]

/-- The page of an address, as an address. -/
theorem toNat_and_page (w : Word) : (w &&& 0xFF00#16).toNat = 256 * (w.toNat / 256) := by
  have hbits : w &&& 0xFF00#16 = (w >>> 8) <<< 8 := by
    apply BitVec.eq_of_getLsbD_eq
    intro i hi
    interval_cases i <;> simp
  have hw := w.isLt
  rw [hbits, BitVec.toNat_shiftLeft, BitVec.toNat_ushiftRight, Nat.shiftLeft_eq, Nat.shiftRight_eq_div_pow]
  omega

/-- Two addresses are on different pages when their high bytes differ (40_step_and_addressing R161). -/
theorem cross_eq (a b : Word) : cross a b = decide (a.toNat / 256 ≠ b.toNat / 256) := by
  rw [cross, Bool.eq_iff_iff, bne_iff_ne, decide_eq_true_eq, ne_eq, ← BitVec.toNat_inj, toNat_and_page, toNat_and_page]
  omega

/-- An index crosses a page when it carries out of the low byte. -/
theorem cross_add_zext16 (a : Word) (v : Byte) :
    cross a (a + zext16 v) = decide (256 ≤ a.toNat % 256 + v.toNat) := by
  have ha := a.isLt
  have hv := v.isLt
  rw [cross_eq, BitVec.toNat_add, toNat_zext16, decide_eq_decide]
  omega

theorem toNat_zpWord (s : State) (z : Byte) :
    (zpWord s z).toNat =
      256 * (Memory.read s.ram ((z.toNat + 1) % 256)).toNat + (Memory.read s.ram z.toNat).toNat := by
  rw [zpWord, toNat_word16, BitVec.toNat_add]
  rfl

/-- Settles O24: the addresses and page crosses of `address_of_effectiveAddr`, as numbers. -/
theorem effectiveAddresses : Obligations.EffectiveAddresses := by
  refine ⟨fun z s => ?_, fun z s => ?_, fun z s => ?_, fun a s => rfl, fun a s => ?_, fun a s => ?_, fun z s => ?_,
    fun z s => ?_, fun s v d => ⟨rfl, rfl, rfl, rfl⟩⟩
  · rw [← zext16_eq_ofNat]; rfl
  · rw [← BitVec.toNat_add, ← zext16_eq_ofNat]; rfl
  · rw [← BitVec.toNat_add, ← zext16_eq_ofNat]; rfl
  · rw [← cross_add_zext16, ← add_zext16]; rfl
  · rw [← cross_add_zext16, ← add_zext16]; rfl
  · have hz : ((z + s.x).toNat + 1) % 256 = (z.toNat + s.x.toNat + 1) % 256 := by rw [BitVec.toNat_add]; omega
    rw [← hz, ← BitVec.toNat_add, ← toNat_zpWord, BitVec.ofNat_toNat, BitVec.setWidth_eq]
    exact address_of_effectiveAddr rfl
  · have hlow := (Memory.read s.ram z.toNat).isLt
    have hcross : cross (zpWord s z) (zpWord s z + zext16 s.y) =
        decide (256 ≤ (Memory.read s.ram z.toNat).toNat + s.y.toNat) := by
      rw [cross_add_zext16, toNat_zpWord, decide_eq_decide]; omega
    rw [← toNat_zpWord, ← add_zext16, ← hcross]
    exact address_of_effectiveAddr rfl

/-! #### Reading the operand -/

/-- An operand with an effective address is read there, after the page-cross charge. -/
theorem operandRead_of_effectiveAddr {o : Operand} {s : State} {a : Word} (op : Byte) (h : effectiveAddr o s = some a) :
    operandRead op o s = (pageCrossTick op (crossesPage o s) s >>= fun s1 => memRead s1 a) := by
  rw [operandRead, operandPlace, address_of_effectiveAddr h]
  simp only [ok_bind]
  cases pageCrossTick op (crossesPage o s) s <;> rfl

/-- A tick leaves plain bytes as they are, so a plain read after it gives the byte of before. -/
theorem busTick_memRead_plain {s : State} {a : Word} {v : Byte} (n : Nat) (h : plainByte s a = some v) :
    (busTick s n >>= fun t => memRead t a) = (busTick s n).map fun t => (v, t) := by
  cases ht : busTick s n with
  | error e => rfl
  | ok t => exact memRead_plain (((busTick_spec ht).1.plain a).trans h)

/-- Settles O25: the page-cross charge and then a plain read. -/
theorem plainOperandRead : Obligations.PlainOperandRead := by
  refine ⟨fun op o s a v ha hv => ?_, fun op s => rfl, fun op v s => rfl⟩
  have hread : operandRead op o s =
      if crossesPage o s && (cycleCost s.cfg op).pageCross then (busTick s 1).map fun t => (v, t) else .ok (v, s) := by
    rw [operandRead_of_effectiveAddr op ha, pageCrossTick]
    split
    · exact busTick_memRead_plain 1 hv
    · exact memRead_plain hv
  refine ⟨hread, fun hs => ?_⟩
  rw [hread]
  split
  · obtain ⟨t, ht⟩ := busTick_total hs 1
    exact ⟨t, by rw [ht]; rfl⟩
  · exact ⟨s, rfl⟩

/-! #### The rows that pay the page-cross cycle -/

theorem mem_of_codeAt {l : List (Mode × Byte)} {m : Mode} {op : Byte} (h : codeAt l m = some op) : (m, op) ∈ l := by
  induction l with
  | nil => simp [codeAt] at h
  | cons r t ih =>
    obtain ⟨k, c⟩ := r
    simp only [codeAt] at h
    split at h
    next hk => subst hk; simp only [Option.some.injEq] at h; subst h; exact List.mem_cons_self
    next => exact List.mem_cons_of_mem _ (ih h)

/-- An instruction pays by its mode as `g` says, if every row of its encoding table does. -/
theorem pageCross_of_table {l : List (Mode × Byte)} {m : Mode} {op : Byte} (g : Mode → Bool)
    (hl : ∀ r ∈ l, (cycleCost defaultConfig r.2).pageCross = g r.1) (h : codeAt l m = some op) :
    (cycleCost defaultConfig op).pageCross = g m :=
  hl _ (mem_of_codeAt h)

theorem pageCross_of_nopCodes {m : Mode} {op : Byte} (h : op ∈ nopCodes m) :
    (cycleCost defaultConfig op).pageCross = (m == .abx) := by
  have hall : ∀ m : Mode, ∀ c ∈ nopCodes m, (cycleCost defaultConfig c).pageCross = (m == .abx) := by
    intro m; cases m <;> decide
  exact hall m op h

theorem pageCross_of_unsupported {op : Byte} (h : op ∈ unsupportedCodes) :
    (cycleCost defaultConfig op).pageCross = false := by
  have hall : ∀ c ∈ unsupportedCodes, (cycleCost defaultConfig c).pageCross = false := by decide
  exact hall op h

/-- Settles O26, over each instruction's encoding table. -/
theorem pageCrossRows : Obligations.PageCrossRows := by
  intro i op h
  cases i
  case adc o | and o | cmp o | eor o | lda o | ora o | sbc o =>
    exact pageCross_of_table (fun m => [Mode.abx, .aby, .izy].contains m) (by decide) h
  case ldx o => exact pageCross_of_table (fun m => m == .aby) (by decide) h
  case ldy o => exact pageCross_of_table (fun m => m == .abx) (by decide) h
  case lax o => exact pageCross_of_table (fun m => [Mode.aby, .izy].contains m) (by decide) h
  case sta o | stx o | sty o | cpx o | cpy o | bit o | inc o | dec o | asl o | lsr o | rol o | ror o | jmp o | sax o
      | dcp o | isb o | slo o | rla o | sre o | rra o =>
    exact pageCross_of_table (fun _ => false) (by decide) h
  case unop c o =>
    obtain ⟨hc, rfl⟩ : c ∈ nopCodes o.mode ∧ c = op := by simpa [Instr.opcode] using h
    exact pageCross_of_nopCodes hc
  case unsupported c =>
    obtain ⟨hc, rfl⟩ : c ∈ unsupportedCodes ∧ c = op := by simpa [Instr.opcode] using h
    exact pageCross_of_unsupported hc
  all_goals cases h; rfl

end Sys2Proof.Machine

/-! ### Taken branches (40_step_and_addressing R172, 44_control_flow R245 to R252) -/

namespace Sys2Proof.Machine

/-- A branch is one handler with the flag and the value that takes it. -/
theorem exec_branch {i : Instr} {f : Flag} {b : Bool} {d : Byte} (h : branchOf i = some (f, b, d)) (s : State) :
    exec i s = perform i (branchHandler (fun p => getFlag p f == b) d) s := by
  cases i <;> simp only [branchOf, Option.some.injEq, Prod.mk.injEq, reduceCtorEq] at h
  all_goals
    obtain ⟨rfl, rfl, rfl⟩ := h
    simp only [beq_true, beq_false]
    rfl

/-- A branch's row: its operand is its offset, and by default it takes 2 base cycles. -/
theorem branch_row {i : Instr} {f : Flag} {b : Bool} {d : Byte} (h : branchOf i = some (f, b, d)) :
    ∃ op, i.opcode = some op ∧ i.operand = .rel d ∧ (cycleCost defaultConfig op).base = 2 := by
  cases i <;> simp only [branchOf, Option.some.injEq, Prod.mk.injEq, reduceCtorEq] at h
  all_goals
    obtain ⟨rfl, rfl, rfl⟩ := h
    exact ⟨_, rfl, rfl, rfl⟩

/-- The ticks a taken branch pays of its own (40_step_and_addressing R172). -/
def takenTicks (s : State) (target : Word) : List Nat := [1] ++ if cross (s.pc + 1) target then [1] else []

/-- Where PC stands does not matter to ticks. -/
theorem busTicks_withPc (s : State) (w : Word) (ns : List Nat) :
    busTicks ns { s with pc := w } = (busTicks ns s).map fun t => { t with pc := w } := by
  induction ns generalizing s with
  | nil => rfl
  | cons n ns ih =>
    simp only [busTicks, busTick_withPc]
    cases busTick s n with
    | error e => rfl
    | ok t => exact ih t

theorem busTicks_singleton (n : Nat) (s : State) : busTicks [n] s = busTick s n := by
  rw [busTicks]
  cases busTick s n <;> rfl

theorem busTicks_append (ns ks : List Nat) (s : State) :
    busTicks (ns ++ ks) s = (busTicks ns s >>= busTicks ks) := by
  induction ns generalizing s with
  | nil => rfl
  | cons n ns ih =>
    simp only [List.cons_append, busTicks]
    cases busTick s n with
    | error e => rfl
    | ok t => exact ih t

/-- What ticks can do: each adds its cycles and is within a tick's frame. -/
theorem busTicks_spec {ns : List Nat} {s t : State} (h : busTicks ns s = .ok t) :
    TickFrame s t ∧ t.cycles = s.cycles + ns.sum := by
  induction ns generalizing s with
  | nil => simp only [busTicks, Except.ok.injEq] at h; subst h; exact ⟨.refl s, rfl⟩
  | cons n ns ih =>
    simp only [busTicks, bind_eq_ok] at h
    obtain ⟨s1, h1, h2⟩ := h
    obtain ⟨hf, hc, -⟩ := busTick_spec h1
    obtain ⟨hf', hc'⟩ := ih h2
    exact ⟨hf.trans hf', by rw [hc', hc, List.sum_cons, Nat.add_assoc]⟩

/-- Ticks answer unless a frame callback fails. -/
theorem busTicks_total {s : State} (hs : HostSucceeds s) (ns : List Nat) : ∃ t, busTicks ns s = .ok t := by
  induction ns generalizing s with
  | nil => exact ⟨s, rfl⟩
  | cons n ns ih =>
    obtain ⟨s1, h1⟩ := busTick_total hs n
    obtain ⟨t, ht⟩ := ih ((busTick_spec h1).1.succeeds hs)
    exact ⟨t, by rw [busTicks, h1]; exact ht⟩

/-- A taken branch whose offset byte is plain pays its ticks and goes to its target. -/
theorem branchHandler_taken {cond : Byte → Bool} {d v : Byte} {s s1 : State} {pl : Place} (hc : cond s.p = true)
    (hv : plainByte s s.pc = some v) (h : busTicks (takenTicks s (s.pc + 1 + sext16 d)) s = .ok s1) :
    branchHandler cond d pl s = .ok { s1 with pc := s.pc + 1 + sext16 d } := by
  rw [takenTicks, List.cons_append, List.nil_append, busTicks, bind_eq_ok] at h
  obtain ⟨t, ht, hcross⟩ := h
  have hframe := (busTick_spec ht).1
  have hpc : t.pc = s.pc := by rw [hframe.1]
  have hread : memRead t t.pc = .ok (v, t) := memRead_plain (by rw [hframe.plain, hpc, hv])
  rw [branchHandler, if_pos hc, ht, ok_bind, hread]
  simp only [ok_bind, branchCrossTick, hpc]
  split at hcross
  next hx => rw [busTicks_singleton] at hcross; rw [if_pos hx, hcross, ok_bind]
  next hx => cases hcross; rw [if_neg hx, ok_bind]

theorem sum_takenTicks (s : State) (target : Word) :
    (takenTicks s target).sum = 1 + if cross (s.pc + 1) target then 1 else 0 := by
  rw [takenTicks]
  split <;> rfl

/-- Settles O41: the branch's own ticks, then the tick of its base cycles with PC already at the target. -/
theorem branchTakenCycles : Obligations.BranchTakenCycles := by
  intro i f b d v s hi hs hf hv
  obtain ⟨op, hop, ho, hbase⟩ := branch_row hi
  obtain ⟨s1, h1⟩ := busTicks_total hs (takenTicks s (s.pc + 1 + sext16 d))
  have hframe := (busTicks_spec h1).1
  have hcfg : baseCycles s1 op = baseCycles s op := by rw [baseCycles, hframe.1]; rfl
  have hhandler := branchHandler_taken (cond := fun p => getFlag p f == b) (pl := .none) (beq_iff_eq.2 hf) hv h1
  obtain ⟨t, ht⟩ := busTick_total (s := { s1 with pc := pcAfter s.pc 2 (s.pc + 1 + sext16 d) }) (hframe.succeeds hs)
    (baseCycles s op)
  have hticks : busTicks (takenTicks s (s.pc + 1 + sext16 d) ++ [baseCycles s op])
      { s with pc := pcAfter s.pc 2 (s.pc + 1 + sext16 d) } = .ok t := by
    rw [busTicks_append, busTicks_withPc, h1]
    exact (busTicks_singleton _ _).trans ht
  have hcycles := (busTicks_spec hticks).2
  rw [List.sum_append, sum_takenTicks, List.sum_singleton] at hcycles
  refine ⟨op, t, hop, ?_, hticks, by rw [hcycles]; ring, fun hdef => ?_⟩
  · rw [exec_branch hi, perform_eq hop (by rw [ho]; exact operandPlace_rel op d s) hhandler, ho]
    exact congrArg outcome (hcfg.symm ▸ ht)
  · rw [hcycles, baseCycles, hdef, hbase]
    split <;> rfl

end Sys2Proof.Machine

/-! ### What an instruction leaves of the storages (20_memory R62, 40_step_and_addressing R166)

`StoresIn r s t`: from `s` to `t` no storage changes but at the region `r` of the bus. Only a store at a memory operand has
a region, so each instruction's handler needs checking only for its stores. -/

namespace Sys2Proof.Machine

/-- From `s` to `t` a storage changes at most where `r` stands: a RAM or APU byte, the PPU's storages behind a port, the OAM
behind the OAM-DMA address. -/
structure StoresIn (r : Option Region) (s t : State) : Prop where
  ram : (∀ k, r ≠ some (.ram k)) → t.ram = s.ram
  ramByte : ∀ k, r ≠ some (.ram k) → Memory.read t.ram k = Memory.read s.ram k
  apu : (∀ n, r ≠ some (.apu n)) → t.apu = s.apu
  apuByte : ∀ n, r ≠ some (.apu n) → Memory.read t.apu n = Memory.read s.apu n
  video : r ≠ some .port → t.ppu.vram = s.ppu.vram ∧ t.ppu.palette = s.ppu.palette
  oam : r ≠ some .port → r ≠ some .oamDma → t.ppu.oam = s.ppu.oam

section

variable {r : Option Region} {q : Place → Option Region}

/-- What keeps the RAM, the APU storage and the PPU's storages. -/
theorem StoresIn.of_eq {s t : State} (hram : t.ram = s.ram := by rfl) (hapu : t.apu = s.apu := by rfl)
    (hvram : t.ppu.vram = s.ppu.vram := by rfl) (hpal : t.ppu.palette = s.ppu.palette := by rfl)
    (hoam : t.ppu.oam = s.ppu.oam := by rfl) : StoresIn r s t :=
  ⟨fun _ => hram, fun _ _ => by rw [hram], fun _ => hapu, fun _ _ => by rw [hapu], fun _ => ⟨hvram, hpal⟩,
    fun _ _ => hoam⟩

theorem StoresIn.refl (s : State) : StoresIn r s s := .of_eq

theorem StoresIn.trans {s t w : State} (h : StoresIn r s t) (h' : StoresIn r t w) : StoresIn r s w where
  ram := fun hr => (h'.ram hr).trans (h.ram hr)
  ramByte := fun k hk => (h'.ramByte k hk).trans (h.ramByte k hk)
  apu := fun hr => (h'.apu hr).trans (h.apu hr)
  apuByte := fun n hn => (h'.apuByte n hn).trans (h.apuByte n hn)
  video := fun hr => ⟨(h'.video hr).1.trans (h.video hr).1, (h'.video hr).2.trans (h.video hr).2⟩
  oam := fun hp hd => (h'.oam hp hd).trans (h.oam hp hd)

/-- What stores nowhere stores within any region. -/
theorem StoresIn.of_none {s t : State} (h : StoresIn none s t) : StoresIn r s t :=
  .of_eq (h.ram (by simp)) (h.apu (by simp)) (h.video (by simp)).1 (h.video (by simp)).2 (h.oam (by simp) (by simp))

/-! #### Reads and ticks store nothing -/

theorem StoresIn.busTick {s t : State} {n : Nat} (e : busTick s n = .ok t) : StoresIn r s t := by
  obtain ⟨hcore, hclock, -⟩ := (busTick_spec e).1
  exact .of_eq (by rw [hcore]) (by rw [hcore]) (by rw [hclock]) (by rw [hclock]) (by rw [hclock])

theorem StoresIn.memRead {s t : State} {a : Word} {v : Byte} (e : memRead s a = .ok (v, t)) : StoresIn r s t := by
  have hcore := memRead_sameCore e
  have hppu : t.ppu.vram = s.ppu.vram ∧ t.ppu.palette = s.ppu.palette ∧ t.ppu.oam = s.ppu.oam := by
    unfold Machine.memRead at e
    cases hr : regionOf a <;> simp only [hr, Except.ok.injEq, Prod.mk.injEq, reduceCtorEq] at e
    case port =>
      split at e
      next hp => cases e; rw [portRead_frame hp]; exact ⟨rfl, rfl, rfl⟩
      next => cases e
    all_goals obtain ⟨-, rfl⟩ := e; exact ⟨rfl, rfl, rfl⟩
  obtain ⟨hvram, hpal, hoam⟩ := hppu
  exact .of_eq (by rw [hcore]) (by rw [hcore]) hvram hpal hoam

theorem StoresIn.readRun {k : Nat} {a : Word} {s t : State} {bs : List Byte} (e : readRun k a s = .ok (bs, t)) :
    StoresIn r s t := by
  induction k generalizing a s t bs with
  | zero => cases e; exact .of_eq
  | succ k ih =>
    simp only [Machine.readRun, bind_eq_ok] at e
    obtain ⟨⟨v, s1⟩, e1, ⟨vs, s2⟩, e2, e3⟩ := e
    cases e3
    exact (StoresIn.memRead e1).trans (ih e2)

theorem StoresIn.address {o : Operand} {s t : State} {pl : Place} {c : Bool} (e : address o s = .ok (pl, c, t)) :
    StoresIn r s t := by
  cases o <;> simp only [Machine.address, indexed, read16Zp_eq, ok_bind] at e
  case ind a =>
    simp only [bind_eq_ok] at e
    obtain ⟨⟨v, s1⟩, e1, ⟨v2, s2⟩, e2, e3⟩ := e
    cases e3
    exact (StoresIn.memRead e1).trans (.memRead e2)
  all_goals cases e; exact .of_eq

theorem StoresIn.operandPlace {op : Byte} {o : Operand} {s t : State} {pl : Place}
    (e : operandPlace op o s = .ok (pl, t)) : StoresIn r s t := by
  simp only [Machine.operandPlace, bind_eq_ok] at e
  obtain ⟨⟨pl', c, s0⟩, e0, s1, e1, e2⟩ := e
  cases e2
  refine (StoresIn.address e0).trans ?_
  unfold pageCrossTick at e1
  split at e1
  · exact .busTick e1
  · cases e1; exact .of_eq

theorem StoresIn.loadPlace {pl : Place} {s t : State} {v : Byte} (e : loadPlace pl s = .ok (v, t)) :
    StoresIn r s t := by
  cases pl <;> simp only [Machine.loadPlace] at e
  case mem a => exact .memRead e
  all_goals cases e; exact .of_eq

theorem StoresIn.pop {s t : State} {v : Byte} (e : pop s = .ok (v, t)) : StoresIn r s t := by
  rw [pop_eq] at e; cases e; exact .of_eq

theorem StoresIn.pop16 {s t : State} {w : Word} (e : pop16 s = .ok (w, t)) : StoresIn r s t := by
  rw [pop16_eq] at e; cases e; exact .of_eq

/-! #### Writes store at their address -/

theorem StoresIn.memWrite {s t : State} {a : Word} {v : Byte} (e : memWrite s a v = .ok t) :
    StoresIn (some (regionOf a)) s t := by
  unfold Machine.memWrite at e
  cases hr : regionOf a <;> simp only [hr] at e
  case ram k =>
    cases e
    exact { StoresIn.refl s with
      ram := fun h => absurd rfl (h k)
      ramByte := fun j hj => Memory.read_write_ne _ v fun hjk => hj (by rw [hjk]) }
  case apu n =>
    cases e
    exact { StoresIn.refl s with
      apu := fun h => absurd rfl (h n)
      apuByte := fun j hj => Memory.read_write_ne _ v fun hjn => hj (by rw [hjn]) }
  case port =>
    split at e
    next => cases e; exact { StoresIn.refl s with
      video := fun h => absurd rfl h
      oam := fun h => absurd rfl h }
    next => cases e
  case oamDma =>
    simp only [oamDma, bind_eq_ok] at e
    obtain ⟨⟨bs, s1⟩, e1, e2⟩ := e
    have h1 : StoresIn (some .oamDma) s1 { s1 with ppu := oamWriteAll bs s1.ppu } :=
      { StoresIn.refl s1 with oam := fun _ h => absurd rfl h }
    refine ((StoresIn.readRun e1).trans h1).trans ?_
    split at e2
    · exact .busTick e2
    · cases e2; exact .of_eq
  case joypad => cases e; exact .of_eq
  case unmapped => cases e; exact .of_eq
  case prg => cases e

/-- The region a store at a place writes. -/
def Place.region : Place → Option Region
  | .mem a => some (regionOf a)
  | .none | .acc | .value _ => Option.none

theorem StoresIn.storePlace {pl : Place} {s t : State} {v : Byte} (e : storePlace pl v s = .ok t) :
    StoresIn pl.region s t := by
  cases pl <;> simp only [Machine.storePlace] at e
  case mem a => exact .memWrite e
  all_goals cases e; exact .of_eq

/-! #### Handlers -/

/-- At each place a handler stores within a region. -/
def HandlerStores (q : Place → Option Region) (f : Place → State → Except Fault State) : Prop :=
  ∀ pl s t, f pl s = .ok t → StoresIn (q pl) s t

/-- Around its handler an instruction only computes an address, ticks and moves PC. -/
theorem StoresIn.perform {i : Instr} {f : Place → State → Except Fault State} (hf : HandlerStores q f) {s t : State}
    (e : perform i f s = .next t) :
    ∃ op pl s1, Machine.operandPlace op i.operand s = .ok (pl, s1) ∧ StoresIn (q pl) s t := by
  obtain ⟨op, pl, s1, s2, s3, -, hp, h2, h3, rfl⟩ := perform_inv e
  refine ⟨op, pl, s1, hp, ?_⟩
  exact (((StoresIn.operandPlace hp).trans (hf pl s1 s2 h2)).trans (.busTick h3)).trans .of_eq

theorem HandlerStores.reading {f : Byte → State → State} (hf : ∀ v s, StoresIn none s (f v s)) :
    HandlerStores (fun _ => none) (reading f) := by
  intro pl s t e
  simp only [Machine.reading, bind_eq_ok] at e
  obtain ⟨⟨v, s1⟩, e1, e2⟩ := e
  cases e2
  exact (StoresIn.loadPlace e1).trans (hf v s1)

theorem HandlerStores.pure1 {f : State → State} (hf : ∀ s, StoresIn none s (f s)) :
    HandlerStores (fun _ => none) (pure1 f) := by
  intro pl s t e
  cases e
  exact hf s

theorem HandlerStores.discardRead : HandlerStores (fun _ => none) discardRead := by
  intro pl s t e
  simp only [Machine.discardRead, bind_eq_ok] at e
  obtain ⟨⟨v, s1⟩, e1, e2⟩ := e
  cases e2
  exact .loadPlace e1

theorem HandlerStores.jumpHandler : HandlerStores (fun _ => none) jumpHandler := by
  intro pl s t e
  cases pl <;> cases e <;> exact .of_eq

theorem HandlerStores.branchHandler (cond : Byte → Bool) (d : Byte) :
    HandlerStores (fun _ => none) (branchHandler cond d) := by
  intro pl s t e
  unfold Machine.branchHandler at e
  split at e
  · simp only [bind_eq_ok] at e
    obtain ⟨s1, e1, ⟨v, s2⟩, e2, s3, e3, e4⟩ := e
    cases e4
    refine (((StoresIn.busTick e1).trans (.memRead e2)).trans ?_).trans (t := s3) .of_eq
    unfold branchCrossTick at e3
    split at e3
    · exact .busTick e3
    · cases e3; exact .of_eq
  · cases e; exact .of_eq

theorem HandlerStores.returnHandler : HandlerStores (fun _ => none) returnHandler := by
  intro pl s t e
  simp only [Machine.returnHandler, bind_eq_ok] at e
  obtain ⟨⟨w, s1⟩, e1, e2⟩ := e
  cases e2
  exact (StoresIn.pop16 e1).trans .of_eq

theorem HandlerStores.returnFromInterrupt : HandlerStores (fun _ => none) fun _ s => returnFromInterrupt s := by
  intro pl s t e
  simp only [Machine.returnFromInterrupt, bind_eq_ok] at e
  obtain ⟨⟨v, s1⟩, e1, ⟨w, s2⟩, e2, e3⟩ := e
  cases e3
  exact (((StoresIn.pop e1).trans .of_eq).trans (.pop16 e2)).trans .of_eq

theorem HandlerStores.pullA : HandlerStores (fun _ => none) pullA := by
  intro pl s t e
  simp only [Machine.pullA, bind_eq_ok] at e
  obtain ⟨⟨v, s1⟩, e1, e2⟩ := e
  cases e2
  exact (StoresIn.pop e1).trans .of_eq

theorem HandlerStores.pullP : HandlerStores (fun _ => none) pullP := by
  intro pl s t e
  simp only [Machine.pullP, bind_eq_ok] at e
  obtain ⟨⟨v, s1⟩, e1, e2⟩ := e
  cases e2
  exact (StoresIn.pop e1).trans .of_eq

theorem HandlerStores.storing (f : State → Byte) : HandlerStores Place.region (storing f) :=
  fun _ _ _ e => .storePlace e

theorem HandlerStores.modifying {f : Byte → Bool → Byte × Bool} {g : Byte → Bool → State → State}
    (hg : ∀ v c s, StoresIn none s (g v c s)) : HandlerStores Place.region (modifying f g) := by
  intro pl s t e
  simp only [Machine.modifying, bind_eq_ok] at e
  obtain ⟨⟨v, s1⟩, e1, s2, e2, e3⟩ := e
  cases e3
  exact ((StoresIn.loadPlace e1).trans (.storePlace e2)).trans (hg _ _ s2).of_none

end

/-! #### Instructions -/

/-- An instruction whose handler stores nowhere leaves every storage. -/
theorem StoresIn.perform_none {i : Instr} {f : Place → State → Except Fault State}
    (hf : HandlerStores (fun _ => none) f) {s t : State} (e : Machine.perform i f s = .next t) : StoresIn none s t := by
  obtain ⟨_, _, _, -, h⟩ := StoresIn.perform hf e
  exact h

/-- An instruction that stores at its accumulator operand leaves every storage. -/
theorem StoresIn.perform_acc {i : Instr} {f : Place → State → Except Fault State} (hf : HandlerStores Place.region f)
    (ho : i.operand = .acc) {s t : State} (e : Machine.perform i f s = .next t) : StoresIn none s t := by
  obtain ⟨op, pl, s1, hp, h⟩ := StoresIn.perform hf e
  rw [ho, operandPlace_plain rfl] at hp
  cases hp
  exact h

/-- An instruction that stores at its memory operand stores at its effective address. -/
theorem StoresIn.perform_mem {i : Instr} {f : Place → State → Except Fault State} (hf : HandlerStores Place.region f)
    {s t : State} {a : Word} (e : Machine.perform i f s = .next t) (ha : effectiveAddr i.operand s = some a) :
    StoresIn (some (regionOf a)) s t := by
  obtain ⟨op, pl, s1, hp, h⟩ := StoresIn.perform hf e
  simp only [Machine.operandPlace, address_of_effectiveAddr ha, ok_bind, bind_eq_ok] at hp
  obtain ⟨s2, -, hp⟩ := hp
  cases hp
  exact h

/-- An instruction that stores nothing leaves every storage. -/
theorem exec_storesIn_none {i : Instr} {s t : State} (hs : storesSomething i = false) (e : exec i s = .next t) :
    StoresIn none s t := by
  cases i <;> simp only [exec] at e
  case lda | ldx | ldy | lax | adc | sbc | usbc | and | ora | eor | cmp | cpx | cpy | bit =>
    exact .perform_none (.reading fun _ _ => .of_eq) e
  case tax | tay | txa | tya | tsx | txs | inx | iny | dex | dey | nop | clc | sec | cli | sei | cld | sed | clv =>
    exact .perform_none (.pure1 fun _ => .of_eq) e
  case asl o | lsr o | rol o | ror o =>
    obtain rfl : o = .acc := by simpa [storesSomething] using hs
    exact .perform_acc (.modifying fun _ _ _ => .of_eq) rfl e
  case jmp => exact .perform_none .jumpHandler e
  case bcc | bcs | beq | bne | bmi | bpl | bvc | bvs => exact .perform_none (.branchHandler _ _) e
  case rts => exact .perform_none .returnHandler e
  case rti => exact .perform_none .returnFromInterrupt e
  case pla => exact .perform_none .pullA e
  case plp => exact .perform_none .pullP e
  case unop => exact .perform_none .discardRead e
  case brk => cases e; exact .of_eq
  case unsupported op =>
    simp only [execUnsupported] at e
    split at e <;> cases e
    exact .of_eq
  all_goals simp [storesSomething] at hs

/-- A storing instruction stores at its effective address. -/
theorem exec_storesIn_target {i : Instr} {s t : State} {a : Word} (ha : storeTarget i s = some a)
    (e : exec i s = .next t) : StoresIn (some (regionOf a)) s t := by
  cases i <;> simp only [exec] at e
  case sta | stx | sty | sax => exact .perform_mem (.storing _) e ha
  case inc | dec | asl | lsr | rol | ror | dcp | isb | slo | rla | sre | rra =>
    exact .perform_mem (.modifying fun _ _ _ => .of_eq) e ha
  all_goals simp [storeTarget] at ha

/-- A plain byte elsewhere than at the region stored to reads as before. -/
theorem StoresIn.memoryUnchangedBut {r : Option Region} {s t : State} (h : StoresIn r s t) (hc : SameCart s t) :
    MemoryUnchangedBut r s t := by
  intro b hb
  unfold plainByte apuRead
  rw [hc.cart, hc.cfg]
  cases hr : regionOf b <;> rw [hr] at hb <;> simp only
  case ram k => rw [h.ramByte k (Ne.symm hb)]
  case apu n => rw [h.apuByte n (Ne.symm hb)]

/-- Settles O45: only a store changes a storage. -/
theorem nonStoringFrame : Obligations.NonStoringFrame := by
  intro i s t hs e
  have h := exec_storesIn_none hs e
  have hc := (sameCart_closed s).exec ⟨rfl, rfl, rfl⟩ e
  obtain ⟨hvram, hpal⟩ := h.video (by simp)
  exact ⟨h.memoryUnchangedBut hc, h.ram (by simp), h.apu (by simp), hvram, hpal, h.oam (by simp) (by simp), hc.cart⟩

/-- Settles O46: a store changes what stands at its address. -/
theorem storeFrame : Obligations.StoreFrame := by
  intro i a s t ha e
  have h := exec_storesIn_target ha e
  have hc := (sameCart_closed s).exec ⟨rfl, rfl, rfl⟩ e
  exact ⟨h.memoryUnchangedBut hc, fun hp => h.video (by simpa using hp),
    fun hp hd => h.oam (by simpa using hp) (by simpa using hd), hc.cart⟩

end Sys2Proof.Machine

/-! ### The step runs what the bytes at PC decode to (40_step_and_addressing R140, R143, R144, R171) -/

namespace Sys2Proof.Machine

/-- A read with PC past the opcode byte is the read with PC at it. -/
theorem memRead_pastOpcode {s t : State} {a w : Word} {v : Byte} (h : memRead s a = .ok (v, t)) :
    memRead { s with pc := w } a = .ok (v, { t with pc := w }) := by
  rw [memRead_withPc, h]; rfl

theorem memRead_pastOpcode_error {s : State} {a w : Word} {e : Fault} (h : memRead s a = .error e) :
    memRead { s with pc := w } a = .error e := by
  rw [memRead_withPc, h]; rfl

/-! #### The fetch of each length -/

theorem fetch_error {s : State} {e : Fault} (h : memRead s s.pc = .error e) : fetch s = .error e := by
  rw [fetch, h]; rfl

section

variable {s s1 : State} {op : Byte} (h0 : memRead s s.pc = .ok (op, s1))
include h0

theorem fetch_oneByte (hm : (decodeRow op).mode.length = 1) :
    fetch s = .ok (decodeBytes op 0 0, { s1 with pc := s.pc + 1 }) := by
  have hpc : s1.pc = s.pc := by rw [memRead_sameCore h0]
  cases hmode : (decodeRow op).mode <;> simp only [hmode, Mode.length, OfNat.ofNat_ne_one] at hm
  case imp | acc => simp only [fetch, h0, ok_bind, hmode, hpc]

theorem fetch_branch (hm : (decodeRow op).mode = .rel) :
    fetch s = .ok (decodeBytes op (offsetAhead { s1 with pc := s.pc + 1 }) 0, { s1 with pc := s.pc + 1 }) := by
  have hpc : s1.pc = s.pc := by rw [memRead_sameCore h0]
  simp only [fetch, h0, ok_bind, hm, hpc]

/-- The operand bytes are read in order, with PC kept past the opcode byte (40_step_and_addressing R144, R171). -/
theorem fetch_operand (hne : (decodeRow op).mode ≠ .rel) (hm : 2 ≤ (decodeRow op).mode.length) :
    fetch s = (memRead { s1 with pc := s.pc + 1 } (s.pc + 1) >>= fun b1 =>
      if (decodeRow op).mode.length = 2 then .ok (decodeBytes op b1.1 0, b1.2)
      else memRead b1.2 (b1.2.pc + 1) >>= fun b2 => .ok (decodeBytes op b1.1 b2.1, b2.2)) := by
  have hpc : s1.pc = s.pc := by rw [memRead_sameCore h0]
  cases hmode : (decodeRow op).mode <;> simp only [hmode, Mode.length, ne_eq, not_true_eq_false] at hm hne
  case imp | acc => omega
  all_goals
    simp only [fetch, h0, ok_bind, hmode, hpc, Mode.length]
    rfl

theorem fetch_operand_error {e : Fault} (hne : (decodeRow op).mode ≠ .rel) (hm : 2 ≤ (decodeRow op).mode.length)
    (h1 : memRead s1 (s.pc + 1) = .error e) : fetch s = .error e := by
  rw [fetch_operand h0 hne hm, memRead_pastOpcode_error h1]
  rfl

variable {s2 : State} {b1 : Byte} (h1 : memRead s1 (s.pc + 1) = .ok (b1, s2))
include h1

theorem fetch_twoBytes (hne : (decodeRow op).mode ≠ .rel) (hm : (decodeRow op).mode.length = 2) :
    fetch s = .ok (decodeBytes op b1 0, { s2 with pc := s.pc + 1 }) := by
  rw [fetch_operand h0 hne hm.ge, memRead_pastOpcode h1, ok_bind, if_pos hm]

variable (hm : (decodeRow op).mode.length = 3)
include hm

/-- The fetch of a three-byte instruction, up to its last read. -/
theorem fetch_lastByte :
    fetch s = (memRead { s2 with pc := s.pc + 1 } (s.pc + 2) >>= fun b2 => .ok (decodeBytes op b1 b2.1, b2.2)) := by
  have hne : (decodeRow op).mode ≠ .rel := fun h => by rw [h] at hm; simp [Mode.length] at hm
  have hpc : s.pc + 1 + 1 = s.pc + 2 := BitVec.add_assoc s.pc 1 1
  rw [fetch_operand h0 hne (by omega), memRead_pastOpcode h1, ok_bind, if_neg (by omega), ← hpc]

theorem fetch_lastByte_error {e : Fault} (h2 : memRead s2 (s.pc + 2) = .error e) : fetch s = .error e := by
  rw [fetch_lastByte h0 h1 hm, memRead_pastOpcode_error h2]
  rfl

theorem fetch_threeBytes {s3 : State} {b2 : Byte} (h2 : memRead s2 (s.pc + 2) = .ok (b2, s3)) :
    fetch s = .ok (decodeBytes op b1 b2, { s3 with pc := s.pc + 1 }) := by
  rw [fetch_lastByte h0 h1 hm, memRead_pastOpcode h2, ok_bind]

end

/-! #### The offset looked ahead for -/

theorem byteAtPc_of_memRead {s t : State} {v : Byte} (h : memRead s s.pc = .ok (v, t)) : byteAtPc s = v := by
  rw [byteAtPc, h]

/-- The offset looked ahead for is the byte the taken branch's read gives (log 11). -/
theorem offsetAhead_of_taken {s s1 s2 : State} {v : Byte} (ht : busTick s 1 = .ok s1)
    (hr : memRead s1 s.pc = .ok (v, s2)) : offsetAhead s = v := by
  have hpc : s1.pc = s.pc := by rw [busTick_sameCore ht]
  rw [offsetAhead, ht]
  exact byteAtPc_of_memRead (hpc.symm ▸ hr)

/-- A plain offset byte is what is looked ahead for, whether the tick raises or not. -/
theorem offsetAhead_plain {s : State} {v : Byte} (h : plainByte s s.pc = some v) : offsetAhead s = v := by
  cases ht : busTick s 1 with
  | error e => rw [offsetAhead, ht]; exact byteAtPc_of_memRead (memRead_plain h)
  | ok t => exact offsetAhead_of_taken ht (memRead_plain (((busTick_spec ht).1.plain _).trans h))

/-! #### The step -/

section

variable {s : State} (hr : s.run = .running) (hn : s.ppu.nmi = .inactive)
include hr hn

theorem step_of_fetch {i : Instr} {t : State} (h : fetch s = .ok (i, t)) : step s = exec i t := by
  rw [step_instruction hr hn, instructionStep, h]

theorem step_of_fetch_error {e : Fault} (h : fetch s = .error e) : step s = .fault e := by
  rw [step_instruction hr hn, instructionStep, h]

end

/-- Bytes that decode to one instruction are as many as the first one's row has. -/
theorem decode_nil_cases {bs : List Byte} {i : Instr} (h : decode bs = .ok (i, [])) :
    (∃ op, bs = [op] ∧ (decodeRow op).mode.length = 1 ∧ i = decodeBytes op 0 0) ∨
    (∃ op b1, bs = [op, b1] ∧ (decodeRow op).mode.length = 2 ∧ i = decodeBytes op b1 0) ∨
    (∃ op b1 b2, bs = [op, b1, b2] ∧ (decodeRow op).mode.length = 3 ∧ i = decodeBytes op b1 b2) := by
  cases bs with
  | nil => cases h
  | cons op t =>
    simp only [decode] at h
    split at h
    next hl => cases h; exact .inl ⟨op, rfl, hl, rfl⟩
    next b1 _ hl => cases h; exact .inr (.inl ⟨op, b1, rfl, hl, rfl⟩)
    next b1 b2 _ hl => cases h; exact .inr (.inr ⟨op, b1, b2, rfl, hl, rfl⟩)
    next => cases h

/-- Plain bytes at PC that decode to an instruction are fetched as it, and the fetch only moves PC. -/
theorem fetch_plain {s : State} {bs : List Byte} {i : Instr} (hd : decode bs = .ok (i, []))
    (hb : ∀ k (h : k < bs.length), plainByte s (s.pc + BitVec.ofNat 16 k) = some bs[k]) :
    fetch s = .ok (i, { s with pc := s.pc + 1 }) := by
  have hread : ∀ k (h : k < bs.length), memRead s (s.pc + BitVec.ofNat 16 k) = .ok (bs[k], s) := fun k h =>
    memRead_plain (hb k h)
  rcases decode_nil_cases hd with ⟨op, rfl, hl, rfl⟩ | ⟨op, b1, rfl, hl, rfl⟩ | ⟨op, b1, b2, rfl, hl, rfl⟩
  all_goals have h0 : memRead s s.pc = .ok (op, s) := add_ofNat_zero s.pc ▸ hread 0 (by simp)
  · exact fetch_oneByte h0 hl
  · by_cases hrel : (decodeRow op).mode = .rel
    · rw [fetch_branch h0 hrel, offsetAhead_plain (hb 1 (by simp))]
      rfl
    · exact fetch_twoBytes h0 (hread 1 (by simp)) hrel hl
  · exact fetch_threeBytes h0 (hread 1 (by simp)) hl (hread 2 (by simp))

/-- Settles O6, by the length of the fetched instruction. -/
theorem stepRunsDecoded : Obligations.StepRunsDecoded := by
  intro s hr hn
  refine ⟨fun bs i hd hb => step_of_fetch hr hn (fetch_plain hd hb),
    fun e h => step_of_fetch_error hr hn (fetch_error h), fun op s1 m h0 hm => ?_⟩
  subst hm
  refine ⟨fun hl => step_of_fetch hr hn (fetch_oneByte h0 hl),
    fun hrel => ⟨_, step_of_fetch hr hn (fetch_branch h0 hrel), fun s2 s3 v ht h1 => offsetAhead_of_taken ht h1⟩,
    fun hne hl => ⟨fun e h1 => step_of_fetch_error hr hn (fetch_operand_error h0 hne hl h1), fun b1 s2 h1 =>
      ⟨fun hl => step_of_fetch hr hn (fetch_twoBytes h0 h1 hne hl), fun hl =>
        ⟨fun e h2 => step_of_fetch_error hr hn (fetch_lastByte_error h0 h1 hl h2), fun b2 s3 h2 =>
          step_of_fetch hr hn (fetch_threeBytes h0 h1 hl h2)⟩⟩⟩⟩

end Sys2Proof.Machine

/-! ### How an instruction ends by the kind of its handler (40_step_and_addressing R144 to R147, R166)

Each kind of handler has one rule: an instruction that is `perform` with such a handler ends as the claims' terms say.
The handler's own function may change neither the parameters, which hold the base cycles, nor the coming frame replies. -/

namespace Sys2Proof.Machine

/-- Finding the operand and then reading it in the handler is reading the operand and then computing. -/
theorem operandPlace_bind_reading (op : Byte) (o : Operand) (f : Byte → State → State) (s : State) :
    (operandPlace op o s >>= fun r => reading f r.1 r.2) = operandRead op o s >>= fun r => .ok (f r.1 r.2) :=
  (bind_assoc _ _ _).symm

/-- An instruction whose handler reads its operand ends with the handler's function of the byte, or raises what the
access raises. -/
theorem readResult_of_perform {i : Instr} {f : Byte → State → State} (hi : ∀ s, exec i s = perform i (reading f) s)
    (hcfg : ∀ v s, (f v s).cfg = s.cfg := by exact fun _ _ => rfl)
    (hreplies : ∀ v s, (f v s).frameReplies = s.frameReplies := by exact fun _ _ => rfl) : ReadResult i f := by
  refine fun op s hop => ⟨fun v t h => ?_, fun e h => ?_⟩
  · have hc : t.cfg = s.cfg := by rw [operandRead_sameCore h]
    have hs : HostSucceeds s → HostSucceeds (f v t) := fun hs => by
      rw [HostSucceeds, hreplies]; exact operandRead_succeeds hs h
    obtain ⟨⟨pl, s1⟩, hplace, hload⟩ := bind_eq_ok.mp h
    exact perform_ends (hi s) hop hplace (by simp [reading, hload]) ((hcfg v t).trans hc) hs
  · rw [hi s]
    exact perform_fault hop (by rw [operandPlace_bind_reading, h]; rfl)

/-- A write keeps the parameters. -/
theorem memWrite_cfg {s t : State} {a : Word} {v : Byte} (h : memWrite s a v = .ok t) : t.cfg = s.cfg :=
  ((sameCart_closed s).memWrite ⟨rfl, rfl, rfl⟩ h).cfg

/-- An instruction whose handler stores a value of the registers ends with the write of it, or raises what its page
cross or its write raises: the access before the write leaves the registers as they were. -/
theorem storeResult_of_perform {i : Instr} {v : State → Byte} (hi : ∀ s, exec i s = perform i (storing v) s)
    (hv : ∀ s t, SameCore s t → v t = v s := by intro s t h; rw [h]) : StoreResult i v := by
  refine fun op s hop => ⟨fun a s1 hplace => ?_, fun e hplace => ?_⟩
  · have hcore := operandPlace_sameCore hplace
    have hstore : storing v (.mem a) s1 = memWrite s1 a (v s) := by rw [← hv s s1 hcore]; rfl
    refine ⟨fun s2 hw => ?_, fun e hw => ?_⟩
    · have hc : s2.cfg = s.cfg := (memWrite_cfg hw).trans (by rw [hcore])
      exact perform_ends (hi s) hop hplace (hstore.trans hw) hc fun hs =>
        hostSucceeds_closed.memWrite (operandPlace_succeeds hs hplace) hw
    · rw [hi s]
      exact perform_fault hop (by rw [hplace]; exact hstore.trans hw)
  · rw [hi s]
    exact perform_fault hop (by rw [hplace]; rfl)

/-- An implied instruction that only changes registers ends with its function of the state. -/
theorem ends_of_pure1 {i : Instr} {s : State} {op : Byte} (f : State → State)
    (hi : exec i s = perform i (pure1 f) s) (hop : i.opcode = some op) (ho : i.operand = .imp)
    (hcfg : (f s).cfg = s.cfg := by rfl) (hreplies : (f s).frameReplies = s.frameReplies := by rfl) : Ends i s (f s) :=
  perform_ends hi hop (by rw [ho]; exact operandPlace_imp op s) rfl hcfg fun hs => by
    rw [HostSucceeds, hreplies]; exact hs

end Sys2Proof.Machine

/-! ### Loads, stores and transfers (41_load_store_transfer R200 to R211, 46_undocumented R270, R271) -/

namespace Sys2Proof.Machine

/-- Settles O27: each load is a reading handler that puts the byte into its registers and sets Z and N. -/
theorem loadResults : Obligations.LoadResults :=
  ⟨fun _ => readResult_of_perform fun _ => rfl, fun _ => readResult_of_perform fun _ => rfl,
    fun _ => readResult_of_perform fun _ => rfl, fun _ => readResult_of_perform fun _ => rfl⟩

/-- Settles O28: each store is a storing handler of A, X, Y or A and X together. -/
theorem storeResults : Obligations.StoreResults :=
  ⟨fun _ => storeResult_of_perform fun _ => rfl, fun _ => storeResult_of_perform fun _ => rfl,
    fun _ => storeResult_of_perform fun _ => rfl, fun _ => storeResult_of_perform fun _ => rfl⟩

/-- Settles O29: each transfer is an implied instruction that only changes registers. -/
theorem transferResults : Obligations.TransferResults :=
  fun _ => ⟨ends_of_pure1 (fun s => putX s.a s) rfl rfl rfl, ends_of_pure1 (fun s => putY s.a s) rfl rfl rfl,
    ends_of_pure1 (fun s => putA s.x s) rfl rfl rfl, ends_of_pure1 (fun s => putA s.y s) rfl rfl rfl,
    ends_of_pure1 (fun s => putX s.sp s) rfl rfl rfl, ends_of_pure1 (fun s => { s with sp := s.x }) rfl rfl rfl⟩

end Sys2Proof.Machine

/-! ### How a read-modify-write instruction ends (40_step_and_addressing R166) -/

namespace Sys2Proof.Machine

/-- Storing back keeps the parameters. -/
theorem storePlace_cfg {pl : Place} {v : Byte} {s t : State} (h : storePlace pl v s = .ok t) : t.cfg = s.cfg :=
  ((sameCart_closed s).storePlace ⟨rfl, rfl, rfl⟩ h).cfg

/-- Once the byte is read, a read-modify-write handler stores its function of the byte and the carry, which the read
leaves. -/
theorem modifying_of_load {f : Byte → Bool → Byte × Bool} {g : Byte → Bool → State → State} {pl : Place} {v : Byte}
    {s t : State} (h : loadPlace pl s = .ok (v, t)) :
    modifying f g pl s = storePlace pl (f v (getFlag s.p .c)).1 t >>= fun w =>
      .ok (g (f v (getFlag s.p .c)).1 (f v (getFlag s.p .c)).2 w) := by
  have hp : t.p = s.p := by rw [loadPlace_sameCore h]
  rw [modifying, h, ok_bind, hp]

/-- An instruction with a read-modify-write handler ends with what follows the write, or raises what its page cross, its
read or its write raises. The accesses before the write leave the carry as it was. -/
theorem modifyResult_of_perform {i : Instr} {f : Byte → Bool → Byte × Bool} {g : Byte → Bool → State → State}
    (hi : ∀ s, exec i s = perform i (modifying f g) s)
    (hcfg : ∀ r c s, (g r c s).cfg = s.cfg := by exact fun _ _ _ => rfl)
    (hreplies : ∀ r c s, (g r c s).frameReplies = s.frameReplies := by exact fun _ _ _ => rfl) :
    ModifyResult i f g := by
  refine fun op s hop => ⟨fun pl s1 hplace => ⟨fun v s2 hload => ?_, fun e hload => ?_⟩, fun e hplace => ?_⟩
  · have hp : s1.p = s.p := by rw [operandPlace_sameCore hplace]
    have hhandler := hp ▸ modifying_of_load (f := f) (g := g) hload
    refine ⟨fun s3 hstore => ?_, fun e hstore => ?_⟩
    · have hc : s3.cfg = s.cfg := (storePlace_cfg hstore).trans
        (by rw [(operandPlace_sameCore hplace).trans (loadPlace_sameCore hload)])
      refine perform_ends (hi s) hop hplace (by rw [hhandler, hstore, ok_bind]) ((hcfg _ _ s3).trans hc) fun hs => ?_
      have hs2 : HostSucceeds s2 := hostSucceeds_closed.loadPlace (operandPlace_succeeds hs hplace) hload
      rw [HostSucceeds, hreplies]
      exact hostSucceeds_closed.storePlace hs2 hstore
    · rw [hi s]
      exact perform_fault hop (by rw [hplace, ok_bind, hhandler, hstore]; rfl)
  · rw [hi s]
    exact perform_fault hop (by rw [hplace, ok_bind, modifying, hload]; rfl)
  · rw [hi s]
    exact perform_fault hop (by rw [hplace]; rfl)

end Sys2Proof.Machine

/-! ### Arithmetic and logic (42_arithmetic_logic R215 to R229, 46_undocumented R278) -/

namespace Sys2Proof.Machine

/-- Settles O30: ADC is a reading handler that adds the byte, SBC and *SBC ones that add its complement. -/
theorem addResults : Obligations.AddResults :=
  ⟨fun _ => readResult_of_perform fun _ => rfl, fun _ => readResult_of_perform fun _ => rfl,
    fun _ => readResult_of_perform fun _ => rfl⟩

/-- Settles O31: each is a reading handler that puts A combined with the byte into A and sets Z and N. -/
theorem logicResults : Obligations.LogicResults :=
  ⟨fun _ => readResult_of_perform fun _ => rfl, fun _ => readResult_of_perform fun _ => rfl,
    fun _ => readResult_of_perform fun _ => rfl⟩

/-- Settles O32: each is a reading handler that writes P only, the compares from the register's difference with the
byte, BIT from A masked by the byte and from the byte's two high bits. -/
theorem compareResults : Obligations.CompareResults :=
  ⟨fun _ => readResult_of_perform fun _ => rfl, fun _ => readResult_of_perform fun _ => rfl,
    fun _ => readResult_of_perform fun _ => rfl, fun _ => readResult_of_perform fun _ => rfl⟩

/-- Settles O33: each is a read-modify-write handler that takes the byte one up or down and sets Z and N by it. -/
theorem incDecResults : Obligations.IncDecResults :=
  ⟨fun _ => modifyResult_of_perform fun _ => rfl, fun _ => modifyResult_of_perform fun _ => rfl⟩

/-- Settles O34: each is an implied instruction that steps its index register and sets Z and N by it. -/
theorem indexStepResults : Obligations.IndexStepResults :=
  fun _ => ⟨ends_of_pure1 (fun s => putX (incFn s.x) s) rfl rfl rfl,
    ends_of_pure1 (fun s => putY (incFn s.y) s) rfl rfl rfl,
    ends_of_pure1 (fun s => putX (decFn s.x) s) rfl rfl rfl,
    ends_of_pure1 (fun s => putY (decFn s.y) s) rfl rfl rfl⟩

end Sys2Proof.Machine

/-! ### Shifts and rotates (43_shift_rotate R232 to R235) -/

namespace Sys2Proof.Machine

/-- Settles O35: each is a read-modify-write handler that puts the bit shifted out into C and sets Z and N by the
result. -/
theorem shiftResults : Obligations.ShiftResults :=
  ⟨fun _ => modifyResult_of_perform fun _ => rfl, fun _ => modifyResult_of_perform fun _ => rfl,
    fun _ => modifyResult_of_perform fun _ => rfl, fun _ => modifyResult_of_perform fun _ => rfl⟩

end Sys2Proof.Machine

/-! ### How an instruction ends when its handler only makes a step's elementary changes -/

namespace Sys2Proof.Machine

/-- An instruction ends with what its handler leaves, where the handler keeps all that a step's elementary changes keep:
the parameters and the host's coming replies are among it. -/
theorem ends_of_handlerKeeps {i : Instr} {f : Place → State → Except Fault State} {s s1 s2 : State} {op : Byte}
    {pl : Place} (hi : exec i s = perform i f s) (hop : i.opcode = some op)
    (hplace : operandPlace op i.operand s = .ok (pl, s1)) (hhandler : f pl s1 = .ok s2)
    (hkeeps : ∀ I, StepClosed I → HandlerKeeps I f) : Ends i s s2 := by
  have hcart : SameCart s1 s2 := hkeeps _ (sameCart_closed s1) pl s1 s2 ⟨rfl, rfl, rfl⟩ hhandler
  exact perform_ends hi hop hplace hhandler (hcart.cfg.trans (by rw [operandPlace_sameCore hplace])) fun hs =>
    hkeeps _ hostSucceeds_closed pl s1 s2 (operandPlace_succeeds hs hplace) hhandler

end Sys2Proof.Machine

/-! ### Jumps, calls and returns (44_control_flow R240 to R244) -/

namespace Sys2Proof.Machine

/-- The page of a word with the low byte of another, as a number. -/
theorem toNat_page_or_low (w u : Word) :
    ((w &&& 0xFF00) ||| (u &&& 0x00FF)).toNat = 256 * (w.toNat / 256) + u.toNat % 256 := by
  have hpage : (w &&& 0xFF00).toNat = 256 * (w.toNat / 256) := toNat_and_page w
  have hlow : (u &&& 0x00FF).toNat = u.toNat % 256 := Nat.and_two_pow_sub_one_eq_mod u.toNat 8
  rw [BitVec.toNat_or, hpage, hlow]
  exact (Nat.two_pow_add_eq_or_of_lt (i := 8) (Nat.mod_lt _ (by decide)) _).symm

/-- The pointer's high byte is read in the pointer's page, the low byte of its address wrapping (40_step_and_addressing
R157). -/
theorem pointerHigh_eq (ptr : Word) : pointerHigh ptr = (ptr &&& 0xFF00) ||| ((ptr + 1) &&& 0x00FF) := by
  have hptr := ptr.isLt
  have hnext : (ptr + 1).toNat = (ptr.toNat + 1) % 65536 := BitVec.toNat_add ptr 1
  have hlow : loByte ptr = 0xFF ↔ ptr.toNat % 256 = 255 := by rw [← BitVec.toNat_inj, toNat_loByte]; rfl
  apply BitVec.eq_of_toNat_eq
  rw [toNat_page_or_low, hnext, pointerHigh]
  split
  next h => have := hlow.1 h; exact (toNat_and_page ptr).trans (by omega)
  next h => rw [hnext]; have := mt hlow.2 h; omega

/-- The indirect operand is found by its two pointer reads. -/
theorem operandPlace_ind (op : Byte) (ptr : Word) (s : State) :
    operandPlace op (.ind ptr) s = (do
      let lo ← memRead s ptr
      let hi ← memRead lo.2 ((ptr &&& 0xFF00) ||| ((ptr + 1) &&& 0x00FF))
      .ok (.mem (word16 hi.1 lo.1), hi.2)) := by
  rw [← pointerHigh_eq, operandPlace, address, bind_assoc]
  congr 1; funext lo
  rw [bind_assoc]
  rfl

/-- JMP indirect raises what the access to its operand raises. -/
theorem exec_jmp_fault {ptr : Word} {s : State} {e : Fault} (h : operandPlace 0x6C (.ind ptr) s = .error e) :
    exec (.jmp (.ind ptr)) s = .fault e :=
  perform_fault (f := jumpHandler) (i := .jmp (.ind ptr)) rfl (by rw [Instr.operand, h]; rfl)

/-- Settles O37: the handler puts the operand's address into PC; the indirect operand is found by the pointer reads, whose
faults the instruction raises. -/
theorem jumpResults : Obligations.JumpResults := by
  refine ⟨fun a s => ?_, fun ptr s s1 s2 lo hi hlo hhi => ?_, fun ptr s e hlo => ?_, fun ptr s s1 lo e hlo hhi => ?_⟩
  · exact ends_of_handlerKeeps (f := jumpHandler) rfl rfl (operandPlace_plain rfl) rfl fun _ C => C.jumpHandler
  · have hplace : operandPlace 0x6C (.ind ptr) s = .ok (.mem (word16 hi lo), s2) := by
      rw [operandPlace_ind, hlo, ok_bind, hhi]; rfl
    exact ends_of_handlerKeeps (f := jumpHandler) rfl rfl hplace rfl fun _ C => C.jumpHandler
  · exact exec_jmp_fault (by rw [operandPlace_ind, hlo]; rfl)
  · exact exec_jmp_fault (by rw [operandPlace_ind, hlo, ok_bind, hhi]; rfl)

/-- What JSR's handler leaves (44_control_flow R242). -/
theorem callHandler_eq (a : Word) (pl : Place) (s : State) :
    callHandler a pl s = .ok { s with
      ram := Memory.write (Memory.write s.ram (0x100 + s.sp.toNat) (hiByte (s.pc + 1)))
        (0x100 + (s.sp - 1).toNat) (loByte (s.pc + 1))
      sp := s.sp - 2
      pc := a } := by
  have hsp : s.sp - 1 - 1 = s.sp - 2 := by bv_omega
  rw [callHandler, push16_eq, hsp]
  rfl

/-- What RTS's handler leaves (44_control_flow R243). -/
theorem returnHandler_eq (pl : Place) (s : State) :
    returnHandler pl s = .ok { s with
      sp := s.sp + 2
      pc := word16 (Memory.read s.ram (0x100 + (s.sp + 2).toNat)) (Memory.read s.ram (0x100 + (s.sp + 1).toNat)) + 1 } := by
  have hsp : s.sp + 1 + 1 = s.sp + 2 := by bv_omega
  rw [returnHandler, pop16_eq, hsp]
  rfl

/-- What the return from an NMI leaves (44_control_flow R244). -/
theorem returnFromInterrupt_eq (s : State) :
    returnFromInterrupt s = .ok { s with
      sp := s.sp + 3
      p := (Memory.read s.ram (0x100 + (s.sp + 1).toNat) &&& 0xEF) ||| 0x20
      pc := word16 (Memory.read s.ram (0x100 + (s.sp + 3).toNat)) (Memory.read s.ram (0x100 + (s.sp + 2).toNat)) } := by
  have hsp2 : s.sp + 1 + 1 = s.sp + 2 := by bv_omega
  have hsp3 : s.sp + 2 + 1 = s.sp + 3 := by bv_omega
  rw [returnFromInterrupt, pop_eq, ok_bind, pop16_eq, ok_bind, hsp2, hsp3]
  rfl

/-- Settles O38: the handlers' two pushes and two pops, around which no operand is accessed. -/
theorem callReturnResults : Obligations.CallReturnResults := fun s =>
  ⟨fun a => ends_of_handlerKeeps rfl rfl (operandPlace_plain rfl) (callHandler_eq a _ s) fun _ C => C.callHandler a,
    ends_of_handlerKeeps rfl rfl (operandPlace_imp _ s) (returnHandler_eq _ s) fun _ C => C.returnHandler⟩

/-- Settles O39: the handler's three pops, of P and then of PC. -/
theorem rtiResult : Obligations.RtiResult := fun s =>
  ends_of_handlerKeeps rfl rfl (operandPlace_imp _ s) (returnFromInterrupt_eq s)
    fun _ C _ _ _ h e => C.returnFromInterrupt h e

end Sys2Proof.Machine

/-! ### Branches (44_control_flow R245 to R252, 40_step_and_addressing R172) -/

namespace Sys2Proof.Machine

/-- A branch not taken does nothing, and reads nothing. -/
theorem branchHandler_notTaken {cond : Byte → Bool} {s : State} (d : Byte) (pl : Place) (hc : cond s.p = false) :
    branchHandler cond d pl s = .ok s := by
  rw [branchHandler, hc]; rfl

/-- A taken branch: its ticks and its read leave PC, so that the offset is read at PC and the target counted from it. -/
theorem branchHandler_eq {cond : Byte → Bool} {s : State} (d : Byte) (pl : Place) (hc : cond s.p = true) :
    branchHandler cond d pl s = (do
      let s1 ← busTick s 1
      let r ← memRead s1 s.pc
      let s2 ← branchCrossTick (s.pc + 1) (s.pc + 1 + sext16 d) r.2
      .ok { s2 with pc := s.pc + 1 + sext16 d }) := by
  rw [branchHandler, if_pos hc]
  cases h1 : busTick s 1 with
  | error e => rfl
  | ok s1 =>
    have hpc1 : s1.pc = s.pc := by rw [busTick_sameCore h1]
    rw [ok_bind, ok_bind, hpc1]
    cases h2 : memRead s1 s.pc with
    | error e => rfl
    | ok r =>
      have hpc2 : r.2.pc = s.pc := by rw [memRead_sameCore h2, hpc1]
      rw [ok_bind, ok_bind, hpc2]

section

variable {i : Instr} {f : Flag} {b : Bool} {d : Byte} (hi : branchOf i = some (f, b, d)) {s : State}
include hi

/-- A branch ends with what its handler leaves. -/
theorem branch_ends {s' : State} (h : branchHandler (fun p => getFlag p f == b) d .none s = .ok s') : Ends i s s' := by
  obtain ⟨op, hop, ho, -⟩ := branch_row hi
  exact ends_of_handlerKeeps (exec_branch hi s) hop (by rw [ho]; exact operandPlace_rel op d s) h
    fun _ C => C.branchHandler _ d

/-- A branch raises what its handler raises. -/
theorem branch_fault {e : Fault} (h : branchHandler (fun p => getFlag p f == b) d .none s = .error e) :
    exec i s = .fault e := by
  obtain ⟨op, hop, ho, -⟩ := branch_row hi
  rw [exec_branch hi]
  exact perform_fault hop (by rw [ho, operandPlace_rel]; exact h)

end

/-- Settles O40: `branchHandler_eq`, read off operation by operation. -/
theorem branchResults : Obligations.BranchResults := by
  refine fun i f b d s hi => ⟨fun hf => ?_, fun hf => ?_⟩
  · exact branch_ends hi (branchHandler_notTaken d .none (beq_eq_false_iff_ne.2 hf))
  · have htaken := branchHandler_eq (cond := fun p => getFlag p f == b) d .none (beq_iff_eq.2 hf)
    refine ⟨fun s1 s2 s3 v h1 h2 h3 => branch_ends hi ?_, fun e h1 => branch_fault hi ?_,
      fun s1 e h1 h2 => branch_fault hi ?_, fun s1 s2 v e h1 h2 hcross h3 => branch_fault hi ?_⟩
    · rw [htaken, h1, ok_bind, h2, ok_bind, branchCrossTick, h3, ok_bind]
    · rw [htaken, h1]; rfl
    · rw [htaken, h1, ok_bind, h2]; rfl
    · rw [htaken, h1, ok_bind, h2, ok_bind, branchCrossTick, if_pos hcross, h3]; rfl

end Sys2Proof.Machine

/-! ### BRK and NOP (44_control_flow R253, R254, 46_undocumented R279, R280) -/

namespace Sys2Proof.Machine

/-- Settles O42: BRK writes the run state alone; NOP and the implied *NOP have a handler that leaves the state; a *NOP with
an operand is a reading handler that drops the byte. -/
theorem brkNopResults : Obligations.BrkNopResults :=
  ⟨fun _ => rfl, fun _ => ends_of_pure1 (fun s => s) rfl rfl rfl,
    fun _ s hop => ends_of_handlerKeeps rfl hop (operandPlace_imp _ s) rfl fun _ C => C.discardRead,
    fun _ _ => readResult_of_perform (f := fun _ s => s) fun _ => rfl⟩

end Sys2Proof.Machine

/-! ### What an instruction does to the run state (44_control_flow R253, 46_undocumented R281)

Only the two instructions that end a run write the run state; every other one is `perform` with a handler that keeps it. -/

namespace Sys2Proof.Machine

theorem SameCore.run {s t : State} (h : SameCore s t) : t.run = s.run := by rw [h]

/-- A handler leaves the run state as it was. -/
def KeepsRun (f : Place → State → Except Fault State) : Prop := ∀ pl s t, f pl s = .ok t → t.run = s.run

/-- A bus write leaves the run state: the transfer of an OAM DMA only reads and ticks. -/
theorem memWrite_run {s t : State} {a : Word} {v : Byte} (e : memWrite s a v = .ok t) : t.run = s.run := by
  unfold memWrite at e
  cases hr : regionOf a <;> simp only [hr] at e
  case port => split at e <;> cases e; rfl
  case oamDma =>
    simp only [oamDma, bind_eq_ok] at e
    obtain ⟨⟨bs, s1⟩, e1, e2⟩ := e
    refine Eq.trans ?_ (readRun_sameCore e1).run
    split at e2
    · exact (busTick_sameCore e2).run
    · cases e2; rfl
  case prg => cases e
  all_goals cases e; rfl

theorem storePlace_run {pl : Place} {s t : State} {v : Byte} (e : storePlace pl v s = .ok t) : t.run = s.run := by
  cases pl <;> simp only [storePlace] at e
  case mem a => exact memWrite_run e
  all_goals cases e; rfl

theorem KeepsRun.reading {f : Byte → State → State} (hf : ∀ v s, (f v s).run = s.run := by exact fun _ _ => rfl) :
    KeepsRun (reading f) := by
  intro pl s t e
  simp only [Machine.reading, bind_eq_ok] at e
  obtain ⟨⟨v, s1⟩, e1, e2⟩ := e
  cases e2
  exact (hf v s1).trans (loadPlace_sameCore e1).run

theorem KeepsRun.storing (f : State → Byte) : KeepsRun (storing f) := fun _ _ _ e => storePlace_run e

theorem KeepsRun.pure1 {f : State → State} (hf : ∀ s, (f s).run = s.run := by exact fun _ => rfl) :
    KeepsRun (pure1 f) := by
  intro pl s t e
  cases e
  exact hf s

theorem KeepsRun.modifying {f : Byte → Bool → Byte × Bool} {g : Byte → Bool → State → State}
    (hg : ∀ r c s, (g r c s).run = s.run := by exact fun _ _ _ => rfl) : KeepsRun (modifying f g) := by
  intro pl s t e
  simp only [Machine.modifying, bind_eq_ok] at e
  obtain ⟨⟨v, s1⟩, e1, s2, e2, e3⟩ := e
  cases e3
  exact ((hg _ _ s2).trans (storePlace_run e2)).trans (loadPlace_sameCore e1).run

theorem KeepsRun.jumpHandler : KeepsRun jumpHandler := by
  intro pl s t e
  cases pl <;> cases e <;> rfl

theorem KeepsRun.branchHandler (cond : Byte → Bool) (d : Byte) : KeepsRun (branchHandler cond d) := by
  intro pl s t e
  cases hc : cond s.p with
  | false => rw [branchHandler_notTaken d pl hc] at e; cases e; rfl
  | true =>
    simp only [branchHandler_eq d pl hc, bind_eq_ok] at e
    obtain ⟨s1, e1, ⟨v, s2⟩, e2, s3, e3, e4⟩ := e
    cases e4
    have h2 : s2.run = s.run := (memRead_sameCore e2).run.trans (busTick_sameCore e1).run
    unfold branchCrossTick at e3
    split at e3
    · exact (busTick_sameCore e3).run.trans h2
    · cases e3; exact h2

/-- A handler whose answer is known, with the run state of before, keeps the run state. -/
theorem KeepsRun.of_eq {f : Place → State → Except Fault State} {g : State → State} (h : ∀ pl s, f pl s = .ok (g s))
    (hg : ∀ s, (g s).run = s.run := by exact fun _ => rfl) : KeepsRun f := by
  intro pl s t e
  rw [h] at e; cases e
  exact hg s

/-- Around its handler an instruction only computes an address, ticks and moves PC. -/
theorem perform_run {i : Instr} {f : Place → State → Except Fault State} (hf : KeepsRun f) {s t : State}
    (e : perform i f s = .next t) : t.run = s.run := by
  obtain ⟨op, pl, s1, s2, s3, -, hp, h2, h3, rfl⟩ := perform_inv e
  exact ((busTick_sameCore h3).run.trans (hf pl s1 s2 h2)).trans (operandPlace_sameCore hp).run

/-- Settles O18: `KeepsRun` of the handler of each instruction that has one; BRK and UNSUPPORTED have none. -/
theorem runChanges : Obligations.RunChanges := by
  intro i s t e
  cases i <;> simp only [exec] at e
  case brk => cases e; exact .inr (.inl ⟨rfl, rfl⟩)
  case unsupported op =>
    refine .inr (.inr ⟨op, rfl, ?_⟩)
    simp only [execUnsupported, Instr.opcode] at e
    split at e
    next code hc =>
      obtain rfl : op = code := Option.some.inj (Option.ite_none_right_eq_some.1 hc).2
      cases e; rfl
    next => cases e
  all_goals refine .inl ?_
  case lda | ldx | ldy | lax | adc | sbc | usbc | and | ora | eor | cmp | cpx | cpy | bit =>
    exact perform_run .reading e
  case sta | stx | sty | sax => exact perform_run (.storing _) e
  case tax | tay | txa | tya | tsx | txs | inx | iny | dex | dey | nop | clc | sec | cli | sei | cld | sed | clv =>
    exact perform_run .pure1 e
  case inc | dec | asl | lsr | rol | ror | dcp | isb | slo | rla | sre | rra => exact perform_run .modifying e
  case jmp => exact perform_run .jumpHandler e
  case bcc | bcs | beq | bne | bmi | bpl | bvc | bvs => exact perform_run (.branchHandler _ _) e
  case jsr a => exact perform_run (.of_eq (callHandler_eq a)) e
  case rts => exact perform_run (.of_eq returnHandler_eq) e
  case rti => exact perform_run (.of_eq fun _ => returnFromInterrupt_eq) e
  case pha => exact perform_run (.of_eq fun _ s => push_eq s s.a) e
  case php => exact perform_run (.of_eq fun _ s => push_eq s (pushedByPhp s.p)) e
  case pla => exact perform_run (.of_eq (f := pullA) fun _ s => by rw [pullA, pop_eq]; rfl) e
  case plp => exact perform_run (.of_eq (f := pullP) fun _ s => by rw [pullP, pop_eq]; rfl) e
  case unop => exact perform_run (.reading (f := fun _ s => s)) e

end Sys2Proof.Machine

/-! ### Pushes and pulls (45_stack_flags R256 to R259) -/

namespace Sys2Proof.Machine

/-- What PLA's handler leaves (45_stack_flags R257). -/
theorem pullA_eq (pl : Place) (s : State) :
    pullA pl s = .ok { s with
      sp := s.sp + 1
      a := Memory.read s.ram (0x100 + (s.sp + 1).toNat)
      p := flagsZN s.p (Memory.read s.ram (0x100 + (s.sp + 1).toNat)) } := by
  rw [pullA, pop_eq]; rfl

/-- What PLP's handler leaves (45_stack_flags R259). -/
theorem pullP_eq (pl : Place) (s : State) :
    pullP pl s = .ok { s with
      sp := s.sp + 1
      p := (Memory.read s.ram (0x100 + (s.sp + 1).toNat) &&& 0xEF) ||| 0x20 } := by
  rw [pullP, pop_eq]; rfl

/-- An implied instruction whose handler pushes a byte ends with the push of it. -/
theorem ends_of_push {i : Instr} {s : State} {op : Byte} (v : State → Byte)
    (hi : exec i s = perform i (fun _ s => push s (v s)) s) (hop : i.opcode = some op) (ho : i.operand = .imp) :
    Ends i s { s with ram := Memory.write s.ram (0x100 + s.sp.toNat) (v s), sp := s.sp - 1 } :=
  ends_of_handlerKeeps hi hop (by rw [ho]; exact operandPlace_imp op s) (push_eq s (v s))
    fun _ C _ _ _ h e => C.push h e

/-- Settles O43: the handlers' one push, of A or of P with B and B2 set, and one pop, around which no operand is
accessed. -/
theorem stackResults : Obligations.StackResults := fun s =>
  ⟨ends_of_push (fun s => s.a) rfl rfl rfl,
    ends_of_handlerKeeps rfl rfl (operandPlace_imp _ s) (pullA_eq _ s) fun _ C => C.pullA,
    ends_of_push (fun s => pushedByPhp s.p) rfl rfl rfl,
    ends_of_handlerKeeps rfl rfl (operandPlace_imp _ s) (pullP_eq _ s) fun _ C => C.pullP⟩

end Sys2Proof.Machine

/-! ### The flag instructions (45_stack_flags R260 to R266) -/

namespace Sys2Proof.Machine

/-- A flag cleared is the status byte masked by all other bits. -/
theorem setFlag_false (p : Byte) (f : Flag) : setFlag p f false = p &&& ~~~bitMask f.index := rfl

/-- A flag set is the status byte with the flag's bit added. -/
theorem setFlag_true (p : Byte) (f : Flag) : setFlag p f true = p ||| bitMask f.index := rfl

/-- An implied instruction that writes one flag ends with the status byte of that write. -/
theorem ends_of_setFlag {i : Instr} {s : State} {op : Byte} {q : Byte} (f : Flag) (b : Bool)
    (hi : exec i s = perform i (pure1 fun s => { s with p := setFlag s.p f b }) s) (hop : i.opcode = some op)
    (ho : i.operand = .imp) (hq : setFlag s.p f b = q) : Ends i s { s with p := q } := by
  rw [← hq]
  exact ends_of_pure1 (fun s => { s with p := setFlag s.p f b }) hi hop ho

/-- Settles O44: each is an implied instruction that writes its one flag, whose mask is the one stated. -/
theorem flagResults : Obligations.FlagResults := fun s =>
  ⟨ends_of_setFlag .c false rfl rfl rfl (setFlag_false s.p .c),
    ends_of_setFlag .c true rfl rfl rfl (setFlag_true s.p .c),
    ends_of_setFlag .i false rfl rfl rfl (setFlag_false s.p .i),
    ends_of_setFlag .i true rfl rfl rfl (setFlag_true s.p .i),
    ends_of_setFlag .d false rfl rfl rfl (setFlag_false s.p .d),
    ends_of_setFlag .d true rfl rfl rfl (setFlag_true s.p .d),
    ends_of_setFlag .v false rfl rfl rfl (setFlag_false s.p .v)⟩

end Sys2Proof.Machine

/-! ### The composites of a read-modify-write with an operation on A (46_undocumented R272 to R277) -/

namespace Sys2Proof.Machine

/-- Settles O36: each is a read-modify-write handler that goes on with an operation on A and the byte stored. *SLO, *RLA,
*SRE and *RRA write C with the bit shifted out before that operation, which is the carry into *RRA's add. -/
theorem compositeResults : Obligations.CompositeResults :=
  ⟨fun _ => modifyResult_of_perform fun _ => rfl, fun _ => modifyResult_of_perform fun _ => rfl,
    fun _ => modifyResult_of_perform fun _ => rfl, fun _ => modifyResult_of_perform fun _ => rfl,
    fun _ => modifyResult_of_perform fun _ => rfl, fun _ => modifyResult_of_perform fun _ => rfl⟩

end Sys2Proof.Machine

/-! ### The PPU's address space (50_ppu R314 to R318) -/

namespace Sys2Proof.Machine

/-! #### Nametables -/

/-- The bank of each logical nametable (50_ppu R316). -/
theorem ntBank_ok {m : Mirroring} {t bank : Nat} (ht : t < 4)
    (h : (m = .horizontal ∧ bank = t / 2) ∨ (m = .vertical ∧ bank = t % 2) ∨ (m = .fourScreen ∧ t < 2 ∧ bank = t)) :
    ntBank m t = .ok bank := by
  rcases h with ⟨rfl, rfl⟩ | ⟨rfl, rfl⟩ | ⟨rfl, h2, rfl⟩
  · have hbank : (if t < 2 then 0 else 1) = t / 2 := by split <;> omega
    rw [ntBank, hbank]
  · rfl
  · rw [ntBank, if_pos h2]

/-- Nametables 2 and 3 have no bank under four-screen mirroring (50_ppu R316). -/
theorem ntBank_fourScreen_error {t : Nat} (ht : 2 ≤ t) : ntBank .fourScreen t = .error .fourScreenUnsupported := by
  rw [ntBank, if_neg (Nat.not_lt.2 ht)]

/-- A nametable address stands in the bank of its table, or faults as its table does. -/
theorem ntIndex_eq_map (m : Mirroring) (n : Nat) :
    ntIndex m n = (ntBank m ((n - 0x2000) / 0x400)).map fun b => b * 0x400 + (n - 0x2000) % 0x400 := by
  unfold ntIndex
  cases ntBank m ((n - 0x2000) / 0x400) <;> rfl

theorem ntFold_below {n : Nat} (h : n < 0x3000) : ntFold n = n := by rw [ntFold, if_pos h]

/-- The mirrored nametables fold to the address 0x1000 below (50_ppu R318). -/
theorem ntFold_mirror {n : Nat} (hl : 0x3000 ≤ n) (hu : n < 0x3F00) : ntFold n = ntFold (n - 0x1000) := by
  rw [ntFold_below (n := n - 0x1000) (by omega), ntFold, if_neg (by omega)]

/-! #### The rows of the map -/

section

variable {cfg : Config} {cart : Cart} {u : Ppu} {a : Word} {v : Byte}

theorem ppuRead_chr (h : a.toNat < 0x2000) :
    ppuRead cfg cart u a =
      if a.toNat < cart.chr.size then .ok (Memory.read cart.chr.bytes a.toNat) else .error (.chrOutOfRange a) := by
  simp only [ppuRead]
  rw [if_pos h]

theorem ppuWrite_chr (h : a.toNat < 0x2000) : ppuWrite cfg u a v = .ok u := by
  simp only [ppuWrite]
  rw [if_pos h]

theorem ppuRead_nametable (hl : 0x2000 ≤ a.toNat) (hu : a.toNat < 0x3F00) :
    ppuRead cfg cart u a = (ntIndex u.mirroring (ntFold a.toNat)).map (Memory.read u.vram) := by
  simp only [ppuRead]
  rw [if_neg (Nat.not_lt.2 hl), if_pos hu]
  cases ntIndex u.mirroring (ntFold a.toNat) <;> rfl

theorem ppuWrite_nametable (hl : 0x2000 ≤ a.toNat) (hu : a.toNat < 0x3F00) :
    ppuWrite cfg u a v =
      (ntIndex u.mirroring (ntFold a.toNat)).map fun k => { u with vram := Memory.write u.vram k v } := by
  simp only [ppuWrite]
  rw [if_neg (Nat.not_lt.2 hl), if_pos hu]
  cases ntIndex u.mirroring (ntFold a.toNat) <;> rfl

theorem ppuRead_palette (h : 0x3F00 ≤ a.toNat) :
    ppuRead cfg cart u a = .ok (Memory.read u.palette (palIndex cfg a.toNat)) := by
  simp only [ppuRead]
  rw [if_neg (by omega), if_neg (Nat.not_lt.2 h)]

theorem ppuWrite_palette (h : 0x3F00 ≤ a.toNat) :
    ppuWrite cfg u a v = .ok { u with palette := Memory.write u.palette (palIndex cfg a.toNat) v } := by
  simp only [ppuWrite]
  rw [if_neg (by omega), if_neg (Nat.not_lt.2 h)]

end

theorem palIndex_eq (cfg : Config) (n : Nat) :
    palIndex cfg n =
      if (n - 0x3F00) % 32 ∈ cfg.paletteMirrors then (n - 0x3F00) % 32 - 0x10 else (n - 0x3F00) % 32 := by
  simp only [palIndex, List.contains_iff_mem]

/-- Settles O57, row by row. -/
theorem ppuAddressSpace : Obligations.PpuAddressSpace := by
  intro cfg cart u a v
  refine ⟨fun h => ⟨ppuRead_chr h, ppuWrite_chr h⟩, fun hl hu t w ht hw => ⟨fun bank hbank => ?_, fun hm h2 => ?_⟩,
    fun hl hu => ?_, fun hl _ i j hi hj => ?_, rfl⟩
  · have hk : ntIndex u.mirroring (ntFold a.toNat) = .ok (bank * 0x400 + w) := by
      rw [ntFold_below hu, ntIndex_eq_map, ← ht, ntBank_ok (by omega) hbank, hw]; rfl
    rw [ppuRead_nametable hl (by omega), ppuWrite_nametable hl (by omega), hk]
    exact ⟨rfl, rfl⟩
  · have hk : ntIndex u.mirroring (ntFold a.toNat) = .error .fourScreenUnsupported := by
      rw [ntFold_below hu, ntIndex_eq_map, ← ht, hm, ntBank_fourScreen_error h2]; rfl
    rw [ppuRead_nametable hl (by omega), ppuWrite_nametable hl (by omega), hk]
    exact ⟨rfl, rfl⟩
  · have ha : (a - 0x1000).toNat = a.toNat - 0x1000 := BitVec.toNat_sub_of_le (BitVec.le_def.2 (by simp; omega))
    rw [ppuRead_nametable (by omega) hu, ppuWrite_nametable (by omega) hu, ppuRead_nametable (by omega) (by omega),
      ppuWrite_nametable (by omega) (by omega), ha, ntFold_mirror hl hu]
    exact ⟨rfl, rfl⟩
  · have hpal : palIndex cfg a.toNat = j := by rw [palIndex_eq, ← hi, hj]
    rw [ppuRead_palette hl, ppuWrite_palette hl, hpal]
    exact ⟨rfl, rfl⟩

end Sys2Proof.Machine

/-! ### The PPU's clock (50_ppu R319 to R322) -/

namespace Sys2Proof.Machine

/-! #### The bits of the status register -/

theorem setBit_six_true (v : Byte) : setBit v 6 true = v ||| 0x40 := rfl

theorem setBit_seven_true (v : Byte) : setBit v 7 true = v ||| 0x80 := rfl

theorem setBit_seven_false (v : Byte) : setBit v 7 false = v &&& 0x7F := rfl

/-- The frame wrap clears vblank and sprite-0 hit with one mask (50_ppu R322). -/
theorem setBit_seven_six_false (v : Byte) : setBit (setBit v 7 false) 6 false = v &&& 0x3F := BitVec.and_assoc v _ _

/-! #### One scanline -/

theorem spriteZeroTest_eq (u : Ppu) :
    spriteZeroTest u = { u with
      status := if (Memory.read u.oam 0).toNat = u.scanline ∧ (Memory.read u.oam 3).toNat ≤ u.cycle ∧
        u.mask.getLsbD 4 = true then u.status ||| 0x40 else u.status } := by
  by_cases h : (Memory.read u.oam 0).toNat = u.scanline ∧ (Memory.read u.oam 3).toNat ≤ u.cycle ∧
      u.mask.getLsbD 4 = true
  · rw [spriteZeroTest, bitOf, if_pos h, if_pos h, setBit_six_true]
  · rw [spriteZeroTest, bitOf, if_neg h, if_neg h]

theorem vblankStart_eq (u : Ppu) :
    vblankStart u = { u with
      status := u.status ||| 0x80, nmi := if u.ctrl.getLsbD 7 then .active else u.nmi } := by
  rw [show u.ctrl.getLsbD 7 = bitOf u.ctrl 7 from rfl]
  simp only [vblankStart, raiseNmi, setBit_seven_true]
  cases bitOf u.ctrl 7 <;> rfl

theorem frameWrap_eq (u : Ppu) :
    frameWrap u = { u with scanline := 0, status := u.status &&& 0x3F, nmi := .inactive } := by
  rw [frameWrap, setBit_seven_six_false]

/-- A scanline takes 341 cycles, whichever it is (50_ppu R319). -/
@[simp] theorem nextScanline_cycle (u : Ppu) : (nextScanline u).cycle = u.cycle - 341 := by
  rw [nextScanline_eq]
  split
  · rw [vblankStart_cycle]
  · split <;> rfl

/-! #### The loop -/

theorem cycle_iterate_nextScanline (k : Nat) (u : Ppu) : (nextScanline^[k] u).cycle = u.cycle - 341 * k := by
  induction k with
  | zero => rfl
  | succ k ih => rw [Function.iterate_succ_apply', nextScanline_cycle, ih]; omega

/-- While the cycles last, each turn of the loop is a scanline. -/
theorem scanlineLoop_eq_iterate {k : Nat} {u : Ppu} (h : 341 * k ≤ u.cycle) :
    scanlineLoop k u = nextScanline^[k] u := by
  induction k generalizing u with
  | zero => rfl
  | succ k ih =>
    have hk : 341 * k ≤ (nextScanline u).cycle := by rw [nextScanline_cycle]; omega
    rw [scanlineLoop, if_pos (by omega), ih hk, Function.iterate_succ_apply]

/-- Settles O58: `cycle / 341` scanlines pass, which is where the cycles fall below 341; each is one of three kinds. -/
theorem tickEffect : Obligations.TickEffect := by
  refine ⟨fun n u => ?_, spriteZeroTest_eq, fun u => ⟨fun h => ?_, fun h => ?_, fun h h' => ?_⟩⟩
  · generalize hw : spriteZeroTest { u with cycle := u.cycle + n } = w
    have hloop : ppuTick n u = nextScanline^[w.cycle / 341] w := by
      simp only [ppuTick, hw]
      exact scanlineLoop_eq_iterate (Nat.mul_div_le _ _)
    refine ⟨w.cycle / 341, hloop, ?_, fun j hj => ?_⟩
    · rw [hloop, cycle_iterate_nextScanline]; omega
    · rw [cycle_iterate_nextScanline]; omega
  · rw [nextScanline_eq, if_pos h, vblankStart_eq, h]
  · rw [nextScanline_eq, if_neg (by omega), if_pos h, frameWrap_eq]
  · rw [nextScanline_eq, if_neg h, if_neg h']

end Sys2Proof.Machine

/-! ### The PPU's ports (50_ppu R300 to R313) -/

namespace Sys2Proof.Machine

/-! #### Port reads and writes by port -/

section

variable {cfg : Config} {cart : Cart} {u : Ppu} {a : Word} {v : Byte}

theorem portRead_status (h : a.toNat % 8 = 2) : portRead cfg cart u a = .ok (readStatus u) := by
  simp [portRead, portOf, h]

theorem portRead_oamData (h : a.toNat % 8 = 4) :
    portRead cfg cart u a = .ok (Memory.read u.oam u.oamAddr.toNat, u) := by
  simp [portRead, portOf, h]

theorem portRead_data (h : a.toNat % 8 = 7) : portRead cfg cart u a = readData cfg cart u := by
  simp [portRead, portOf, h]

theorem portWrite_ctrl (h : a.toNat % 8 = 0) : portWrite cfg u a v = .ok (writeCtrl v u) := by
  simp [portWrite, portOf, h]

theorem portWrite_mask (h : a.toNat % 8 = 1) : portWrite cfg u a v = .ok { u with mask := v } := by
  simp [portWrite, portOf, h]

theorem portWrite_oamAddr (h : a.toNat % 8 = 3) : portWrite cfg u a v = .ok { u with oamAddr := v } := by
  simp [portWrite, portOf, h]

theorem portWrite_oamData_allowed (h : a.toNat % 8 = 4) (hc : cfg.oamDataWrite = .allowed) :
    portWrite cfg u a v = .ok (writeOamData v u) := by
  simp [portWrite, portOf, h, hc]

theorem portWrite_scroll (h : a.toNat % 8 = 5) : portWrite cfg u a v = .ok (writeScroll cfg v u) := by
  simp [portWrite, portOf, h]

theorem portWrite_addr (h : a.toNat % 8 = 6) : portWrite cfg u a v = .ok (writeAddr cfg v u) := by
  simp [portWrite, portOf, h]

theorem portWrite_data (h : a.toNat % 8 = 7) : portWrite cfg u a v = writeData cfg v u := by
  simp [portWrite, portOf, h]

end

/-! #### What each port does -/

/-- The control write raises the interrupt signal where it turns the enable bit on in vblank (50_ppu R301). -/
theorem writeCtrl_eq (v : Byte) (u : Ppu) :
    writeCtrl v u = { u with
      ctrl := v
      nmi := if u.ctrl.getLsbD 7 = false ∧ v.getLsbD 7 = true ∧ u.status.getLsbD 7 = true then .active
        else u.nmi } := by
  simp only [writeCtrl, raiseNmi, bitOf, Bool.and_eq_true, Bool.not_eq_true', and_assoc]
  split <;> rfl

theorem readStatus_eq (u : Ppu) :
    readStatus u = (u.status, { u with
      status := u.status &&& 0x7F, addrToggle := .first, scrollToggle := .first }) := by
  rw [readStatus, setBit_seven_false]

/-- A write of the scroll toggle writes the address toggle with it where the two are one cell (50_ppu R309). -/
theorem setScrollToggle_eq (cfg : Config) (t : Toggle) (u : Ppu) :
    setScrollToggle cfg t u = { u with
      scrollToggle := t, addrToggle := if cfg.toggleMode = .shared then t else u.addrToggle } := by
  unfold setScrollToggle
  cases cfg.toggleMode <;> rfl

/-- A write of the address toggle writes the scroll toggle with it where the two are one cell (50_ppu R310). -/
theorem setAddrToggle_eq (cfg : Config) (t : Toggle) (u : Ppu) :
    setAddrToggle cfg t u = { u with
      addrToggle := t, scrollToggle := if cfg.toggleMode = .shared then t else u.scrollToggle } := by
  unfold setAddrToggle
  cases cfg.toggleMode <;> rfl

theorem writeScroll_first {cfg : Config} {v : Byte} {u : Ppu} (h : u.scrollToggle = .first) :
    writeScroll cfg v u = setScrollToggle cfg .second { u with scrollX := v } := by
  simp [writeScroll, h]

theorem writeScroll_second {cfg : Config} {v : Byte} {u : Ppu} (h : u.scrollToggle = .second) :
    writeScroll cfg v u = setScrollToggle cfg .first { u with scrollY := v } := by
  simp [writeScroll, h]

/-- The PPU address is kept within its 14 bits. -/
theorem and_3FFF_eq_ofNat_mod (w : Word) : w &&& 0x3FFF = BitVec.ofNat 16 (w.toNat % 0x4000) := by
  apply BitVec.eq_of_toNat_eq
  have hmod : (w &&& 0x3FFF).toNat = w.toNat % 0x4000 := Nat.and_two_pow_sub_one_eq_mod w.toNat 14
  rw [hmod, BitVec.toNat_ofNat]
  omega

theorem writeAddr_first {cfg : Config} {v : Byte} {u : Ppu} (h : u.addrToggle = .first) :
    writeAddr cfg v u = setAddrToggle cfg .second { u with
      addr := BitVec.ofNat 16 ((256 * v.toNat + u.addr.toNat % 256) % 0x4000) } := by
  simp only [writeAddr, h]
  rw [and_3FFF_eq_ofNat_mod, toNat_word16, toNat_loByte]

theorem writeAddr_second {cfg : Config} {v : Byte} {u : Ppu} (h : u.addrToggle = .second) :
    writeAddr cfg v u = setAddrToggle cfg .first { u with
      addr := BitVec.ofNat 16 ((256 * (u.addr.toNat / 256) + v.toNat) % 0x4000) } := by
  simp only [writeAddr, h]
  rw [and_3FFF_eq_ofNat_mod, toNat_word16, toNat_hiByte]

/-- Settles O55, port by port. -/
theorem portRegisters : Obligations.PortRegisters := by
  intro s a v hl hu
  rw [memRead_port hl hu, memWrite_port hl hu]
  refine ⟨fun h => ?_, fun h => ?_, fun h => ?_, fun h => ?_, fun h => ?_, fun h hc => ?_, fun h ht => ?_,
    fun h ht => ?_, fun h ht => ?_, fun h ht => ?_⟩
  · rw [portWrite_ctrl h, writeCtrl_eq]; rfl
  · rw [portWrite_mask h]; rfl
  · rw [portRead_status h, readStatus_eq]; rfl
  · rw [portWrite_oamAddr h]; rfl
  · rw [portRead_oamData h]; rfl
  · rw [portWrite_oamData_allowed h hc]; rfl
  · rw [portWrite_scroll h, writeScroll_first ht, setScrollToggle_eq]; rfl
  · rw [portWrite_scroll h, writeScroll_second ht, setScrollToggle_eq]; rfl
  · rw [portWrite_addr h, writeAddr_first ht, setAddrToggle_eq]; rfl
  · rw [portWrite_addr h, writeAddr_second ht, setAddrToggle_eq]; rfl

/-! #### The data port -/

/-- The PPU address after an access of the data port (50_ppu R313). -/
theorem incrementAddr_eq (u : Ppu) :
    incrementAddr u = { u with
      addr := BitVec.ofNat 16 ((u.addr.toNat + if u.ctrl.getLsbD 2 then 32 else 1) % 0x4000) } := by
  have hinc : (if u.ctrl.getLsbD 2 then 32 else 1 : Word).toNat = if u.ctrl.getLsbD 2 then 32 else 1 := by
    split <;> rfl
  rw [incrementAddr, bitOf, and_3FFF_eq_ofNat_mod, BitVec.toNat_add, hinc, Nat.mod_mod_of_dvd _ (by decide)]

/-- The data read takes the byte before the increment, which the PPU's storages do not see. -/
theorem readData_eq (cfg : Config) (cart : Cart) (u : Ppu) :
    readData cfg cart u = (ppuRead cfg cart u u.addr).map fun w =>
      if u.addr.toNat ≤ 0x3EFF then (u.dataBuf, { incrementAddr u with dataBuf := w }) else (w, incrementAddr u) := by
  have hread : ppuRead cfg cart (incrementAddr u) u.addr = ppuRead cfg cart u u.addr := rfl
  rw [readData, hread]
  cases ppuRead cfg cart u u.addr with
  | error e => rfl
  | ok w => simp only [Except.map]; split <;> rfl

theorem writeData_eq (cfg : Config) (v : Byte) (u : Ppu) :
    writeData cfg v u = (ppuWrite cfg u u.addr v).map incrementAddr := by
  unfold writeData
  cases ppuWrite cfg u u.addr v <;> rfl

/-- A PPU write moves the address on by what the control register said before it. -/
theorem incrementAddr_ppuWrite {cfg : Config} {u u' : Ppu} {a : Word} {v : Byte} (h : ppuWrite cfg u a v = .ok u') :
    incrementAddr u' = { u' with addr := (incrementAddr u).addr } := by
  rw [ppuWrite_frame h]; rfl

/-- Settles O56: the port's read and write are the PPU address's, mapped by the buffer and the increment. -/
theorem dataPort : Obligations.DataPort := by
  intro s a next v hl hu hp hnext
  have haddr : incrementAddr s.ppu = { s.ppu with addr := next } := by rw [incrementAddr_eq, hnext]
  rw [memRead_port hl hu, portRead_data hp, readData_eq, memWrite_port hl hu, portWrite_data hp, writeData_eq]
  refine ⟨fun w hw hb => ?_, fun w hw hb => ?_, fun e he => ?_, fun u hw => ?_, fun e he => ?_⟩
  · simp only [hw, Except.map, if_pos hb, haddr]
  · simp only [hw, Except.map, if_neg (show ¬ s.ppu.addr.toNat ≤ 0x3EFF by omega), haddr]
  · rw [he]; rfl
  · simp only [hw, Except.map, incrementAddr_ppuWrite hw, haddr]
  · rw [he]; rfl

end Sys2Proof.Machine

/-! ### Which bus accesses change the interrupt signal (50_ppu R324, R305) -/

namespace Sys2Proof.Machine

/-- The ports are their row of the decoder (20_memory R61). -/
theorem regionOf_eq_port_iff (a : Word) : regionOf a = .port ↔ 0x2000 ≤ a.toNat ∧ a.toNat < 0x4000 := by
  simp only [regionOf]
  repeat' split
  all_goals simp only [reduceCtorEq, false_iff, true_iff]; omega

/-- OAM DMA stands at one address (20_memory R61). -/
theorem regionOf_eq_oamDma_iff (a : Word) : regionOf a = .oamDma ↔ a = 0x4014 := by
  rw [← BitVec.toNat_inj, show (0x4014 : Word).toNat = 0x4014 from rfl]
  simp only [regionOf]
  repeat' split
  all_goals simp only [reduceCtorEq, false_iff, true_iff]; omega

/-- A read elsewhere than at a port leaves the PPU. -/
theorem memRead_ppu_of_ne_port {s t : State} {a : Word} {v : Byte} (e : memRead s a = .ok (v, t))
    (h : regionOf a ≠ .port) : t.ppu = s.ppu := by
  unfold memRead at e
  cases hr : regionOf a <;> simp only [hr] at e
  case port => exact absurd hr h
  case oamDma => cases e
  all_goals cases e; rfl

/-- A write elsewhere than at a port or at OAM DMA leaves the PPU. -/
theorem memWrite_ppu_of_ne_port {s t : State} {a : Word} {v : Byte} (e : memWrite s a v = .ok t)
    (h : regionOf a ≠ .port) (hd : regionOf a ≠ .oamDma) : t.ppu = s.ppu := by
  unfold memWrite at e
  cases hr : regionOf a <;> simp only [hr] at e
  case port => exact absurd hr h
  case oamDma => exact absurd hr hd
  case prg => cases e
  all_goals cases e; rfl

/-- A port write elsewhere than at the control register leaves the interrupt signal. -/
theorem portWrite_nmi_of_ne_ctrl {cfg : Config} {u u' : Ppu} {a : Word} {v : Byte} (e : portWrite cfg u a v = .ok u')
    (h : a.toNat % 8 ≠ 0) : u'.nmi = u.nmi := by
  unfold portWrite at e
  split at e
  case h_1 hp => exact absurd hp h
  case h_2 => cases e; rfl
  case h_3 => cases e; rfl
  case h_4 => split at e <;> cases e; rfl
  case h_5 =>
    cases e
    cases ht : u.scrollToggle
    · rw [writeScroll_first ht, setScrollToggle_eq]
    · rw [writeScroll_second ht, setScrollToggle_eq]
  case h_6 =>
    cases e
    cases ht : u.addrToggle
    · rw [writeAddr_first ht, setAddrToggle_eq]
    · rw [writeAddr_second ht, setAddrToggle_eq]
  case h_7 =>
    rw [writeData_eq] at e
    cases hw : ppuWrite cfg u u.addr v with
    | error x => rw [hw] at e; cases e
    | ok w => rw [hw] at e; cases e; rw [ppuWrite_frame hw]; rfl
  case h_8 => cases e

/-- The interrupt signal after a port write (50_ppu R301, R324). -/
theorem portWrite_nmi {cfg : Config} {u u' : Ppu} {a : Word} {v : Byte} (e : portWrite cfg u a v = .ok u') :
    u'.nmi = if a.toNat % 8 = 0 ∧ u.ctrl.getLsbD 7 = false ∧ v.getLsbD 7 = true ∧ u.status.getLsbD 7 = true then
      .active else u.nmi := by
  by_cases h : a.toNat % 8 = 0
  · rw [portWrite_ctrl h, writeCtrl_eq] at e
    cases e
    simp only [h, true_and]
  · rw [portWrite_nmi_of_ne_ctrl e h, if_neg (fun hc => h hc.1)]

/-- Settles O59: the PPU is reached through a port only, and no port but the control register writes the signal. -/
theorem nmiSignalChanges : Obligations.NmiSignalChanges := by
  refine ⟨fun s t a v e => ?_, fun s t a v e hd => ?_⟩
  · by_cases hp : regionOf a = .port
    · obtain ⟨hl, hu⟩ := (regionOf_eq_port_iff a).1 hp
      rw [memRead_port hl hu] at e
      cases hr : portRead s.cfg s.cart s.ppu a with
      | error x => rw [hr] at e; cases e
      | ok r => rw [hr] at e; cases e; rw [portRead_frame hr]
    · rw [memRead_ppu_of_ne_port e hp]
  · by_cases hp : regionOf a = .port
    · obtain ⟨hl, hu⟩ := (regionOf_eq_port_iff a).1 hp
      rw [memWrite_port hl hu] at e
      cases hr : portWrite s.cfg s.ppu a v with
      | error x => rw [hr] at e; cases e
      | ok u => rw [hr] at e; cases e; simp only [portWrite_nmi hr, hl, hu, true_and]
    · have hout : ¬ (0x2000 ≤ a.toNat ∧ a.toNat < 0x4000) := fun h => hp ((regionOf_eq_port_iff a).2 h)
      rw [memWrite_ppu_of_ne_port e hp fun h => hd ((regionOf_eq_oamDma_iff a).1 h),
        if_neg fun ⟨hl, hu, _⟩ => hout ⟨hl, hu⟩]

end Sys2Proof.Machine

/-! ### The PPU clock and the CPU clock (70_reset_and_hazards R407) -/

namespace Sys2Proof.Machine

/-- The PPU cycles passed since the frame's first scanline began. -/
def Ppu.dot (u : Ppu) : Nat := 341 * u.scanline + u.cycle

/-- The PPU clock agrees with the CPU clock up to whole frames of 262 scanlines. Unlike `ClockAgrees` it does not need the
ranges of the PPU's counters to be kept. -/
def ClockCongruent (s : State) : Prop := s.ppu.dot ≡ 3 * s.cycles [MOD 89342]

/-- A scanline's end counts a scanline for its 341 cycles; the frame's end drops a whole frame (50_ppu R319, R322). -/
theorem nextScanline_dot {u : Ppu} (h : 341 ≤ u.cycle) : (nextScanline u).dot ≡ u.dot [MOD 89342] := by
  rw [nextScanline_eq]
  split
  · simp only [Ppu.dot, Nat.ModEq, vblankStart_scanline, vblankStart_cycle]; omega
  · split
    · simp only [Ppu.dot, Nat.ModEq, frameWrap]; omega
    · simp only [Ppu.dot, Nat.ModEq]; omega

theorem scanlineLoop_dot (k : Nat) (u : Ppu) : (scanlineLoop k u).dot ≡ u.dot [MOD 89342] := by
  induction k generalizing u with
  | zero => rfl
  | succ k ih =>
    rw [scanlineLoop]
    split
    case isTrue h => exact (ih (nextScanline u)).trans (nextScanline_dot h)
    case isFalse => rfl

theorem spriteZeroTest_dot (u : Ppu) : (spriteZeroTest u).dot = u.dot := by rw [spriteZeroTest_eq]; rfl

/-- A tick of `n` moves the PPU clock by `n` cycles, up to whole frames. -/
theorem ppuTick_dot (n : Nat) (u : Ppu) : (ppuTick n u).dot ≡ u.dot + n [MOD 89342] := by
  rw [ppuTick]
  exact (scanlineLoop_dot _ _).trans (by rw [spriteZeroTest_dot, Ppu.dot, Ppu.dot, Nat.add_assoc])

theorem clockCongruent_closed : StepClosed ClockCongruent where
  regs := fun _ _ _ _ _ _ h => h
  status := fun _ _ h _ => h
  run := fun _ _ h => h
  ram := fun _ _ _ _ h => h
  apu := fun _ _ _ _ h => h
  portRead := fun _ _ _ _ h e => by rw [portRead_frame e]; exact h
  portWrite := fun _ _ _ _ h e => by rw [portWrite_frame e]; exact h
  padRead := fun _ h => h
  padWrite := fun _ _ h => h
  oam := fun _ _ h => h
  clock := fun s n h => by
    rw [ClockCongruent, clock_ppu, clock_cycles, Nat.mul_add]
    exact (ppuTick_dot (3 * n) s.ppu).trans (h.add_right _)
  frame := fun _ _ h e => by rw [(hostFrame_spec e).1]; exact h
  consume := fun _ h => h

/-- Within the counters' ranges a frame is not over, so the clocks agree as numbers. -/
theorem clockAgrees_iff {s : State} (h : DeviceRanges s) : ClockAgrees s ↔ ClockCongruent s := by
  have hdot : s.ppu.dot < 89342 := by
    have hs := h.scanline
    have hc := h.cycle
    rw [Ppu.dot]; omega
  rw [ClockCongruent, Nat.ModEq, Nat.mod_eq_of_lt hdot]
  rfl

/-- Settles O13: a tick moves both clocks together up to whole frames, and the ranges leave no whole frame. -/
theorem stepKeepsClock : Obligations.StepKeepsClock := by
  intro s t hr hc e
  have ht : ClockCongruent t := clockCongruent_closed.step ((clockAgrees_iff hr).1 hc) e
  exact (clockAgrees_iff (stepKeepsDeviceRanges s t hr e)).2 ht

end Sys2Proof.Machine

/-! ### The NMI: its entry and the return from it (60_exceptions R371 to R373) -/

namespace Sys2Proof.Machine

/-- A vector stands in PRG ROM: its two bytes, low byte first, and nothing changes (20_memory R72, R82). -/
theorem read16_prg {s : State} {a : Word} (h : 0x8000 ≤ a.toNat) (h' : 0x8000 ≤ (a + 1).toNat) :
    read16 s a = .ok (word16 (prgByte s.cart (a + 1).toNat) (prgByte s.cart a.toNat), s) := by
  rw [read16, memRead_prg h, ok_bind, memRead_prg h']
  rfl

/-- RAM with PC, high byte first, and the status of an NMI pushed (60_exceptions R372). -/
def nmiFrame (s : State) : Memory :=
  Memory.write (Memory.write (Memory.write s.ram
    (0x100 + s.sp.toNat) (hiByte s.pc))
    (0x100 + (s.sp - 1).toNat) (loByte s.pc))
    (0x100 + (s.sp - 2).toNat) (pushedByNmi s.p)

/-- The three pushes stand at three places, wherever the stack wraps in its page. -/
theorem read_nmiFrame (s : State) :
    Memory.read (nmiFrame s) (0x100 + s.sp.toNat) = hiByte s.pc ∧
    Memory.read (nmiFrame s) (0x100 + (s.sp - 1).toNat) = loByte s.pc ∧
    Memory.read (nmiFrame s) (0x100 + (s.sp - 2).toNat) = pushedByNmi s.p := by
  have h01 : 0x100 + s.sp.toNat ≠ 0x100 + (s.sp - 1).toNat := by bv_omega
  have h02 : 0x100 + s.sp.toNat ≠ 0x100 + (s.sp - 2).toNat := by bv_omega
  have h12 : 0x100 + (s.sp - 1).toNat ≠ 0x100 + (s.sp - 2).toNat := by bv_omega
  refine ⟨?_, ?_, Memory.read_write_same _ _ _⟩
  · rw [nmiFrame, Memory.read_write_ne _ _ h02, Memory.read_write_ne _ _ h01, Memory.read_write_same]
  · rw [nmiFrame, Memory.read_write_ne _ _ h12, Memory.read_write_same]

/-- What the NMI entry does before its tick: PC and P are saved, I is set, PC comes from the vector (60_exceptions R372). -/
theorem nmiEntry_eq (s : State) :
    nmiEntry s = busTick { s with
      ram := nmiFrame s
      sp := s.sp - 3
      p := setFlag s.p .i true
      pc := word16 (prgByte s.cart 0xFFFB) (prgByte s.cart 0xFFFA) } s.cfg.nmiCycles := by
  have hsp2 : s.sp - 1 - 1 = s.sp - 2 := by bv_omega
  have hsp3 : s.sp - 2 - 1 = s.sp - 3 := by bv_omega
  rw [nmiEntry, push16_eq, ok_bind, hsp2, push_eq, ok_bind, hsp3, read16_prg (by decide) (by decide)]
  rfl

/-- Settles O8: the poll consumes the signal, and the entry's tick is all that can raise. -/
theorem stepTakesNmi : Obligations.StepTakesNmi := by
  intro s u hrun hnmi hu
  have hp : u.p = setFlag s.p .i true := by rw [hu]; rfl
  have hsp : u.sp = s.sp - 3 := by rw [hu]
  have hstep : step s = outcome (busTick u s.cfg.nmiCycles) := by
    rw [step_nmi hrun hnmi, nmiEntry_eq, hu]; rfl
  refine ⟨hstep, fun hs => ?_⟩
  obtain ⟨t, ht⟩ := busTick_total (s := u) (by rw [hu]; exact hs) s.cfg.nmiCycles
  have hcore : SameCore u t := busTick_sameCore ht
  refine ⟨t, by rw [hstep, ht]; rfl, ht, fun draws => ?_⟩
  rw [hcore]
  exact ⟨rfl, hsp, by simp [traceRecord, hp]⟩

/-- A status with the stored Break bits comes back from an NMI as it was. -/
theorem pulledStatus_pushedByNmi {p : Byte} (h : breakOk p) : pulledStatus (pushedByNmi p) = p := by
  obtain ⟨hb, hb2⟩ := h
  apply status_ext
  intro f
  cases f <;> simp [hb, hb2]

/-- An instruction of one byte has no operand bytes to pass (40_step_and_addressing R147). -/
theorem pcAfter_one (before w : Word) : pcAfter before 1 w = w := by
  rw [pcAfter]
  split
  case isTrue h => rw [h]; exact BitVec.add_zero before
  case isFalse => rfl

/-- Settles O9: the entry leaves A, X and Y, and RTI pulls from the places of its pushes. -/
theorem nmiReturnRestores : Obligations.NmiReturnRestores := by
  intro s t hb hs h
  have ht : HostSucceeds t := hostSucceeds_closed.nmiEntry hs h
  rw [nmiEntry_eq] at h
  have hcore := busTick_sameCore h
  obtain ⟨_, u, -, hu, htick⟩ := (rtiResult t).1 ht
  have hsp1 : s.sp - 3 + 1 = s.sp - 2 := by bv_omega
  have hsp2 : s.sp - 3 + 2 = s.sp - 1 := by bv_omega
  have hsp3 : s.sp - 3 + 3 = s.sp := by bv_omega
  obtain ⟨hhi, hlo, hst⟩ := read_nmiFrame s
  refine ⟨u, hu, ?_⟩
  rw [busTick_sameCore htick, hcore]
  simp only [Instr.operand, Operand.mode, Mode.length, pcAfter_one, hsp1, hsp2, hsp3, hhi, hlo, hst,
    word16_hiByte_loByte, and_true, true_and]
  exact pulledStatus_pushedByNmi hb

end Sys2Proof.Machine

/-! ### Power-on and reset (70_reset_and_hazards R400 to R402) -/

namespace Sys2Proof.Machine

/-! #### Power-on -/

/-- The APU storage's addresses are those of the list it is filled at. -/
theorem mem_apuAddresses {n : Nat} : n ∈ apuAddresses ↔ apuAddress n = true := by
  simp only [apuAddresses, apuAddress, List.mem_append, List.mem_map, List.mem_range, List.mem_cons, List.not_mem_nil,
    or_false, Bool.and_eq_true, decide_eq_true_eq]
  constructor
  · rintro (⟨k, hk, rfl⟩ | rfl | rfl) <;> omega
  · rintro ⟨⟨⟨hl, hu⟩, hd⟩, hj⟩
    by_cases h : n < 0x4014
    · exact .inl ⟨n - 0x4000, by omega, by omega⟩
    · omega

theorem Memory.filled_range (n : Nat) (v : Byte) :
    Memory.wf (Memory.filled (List.range n) v) = true ∧ Memory.below n (Memory.filled (List.range n) v) = true :=
  ⟨Memory.wf_filled v List.pairwise_lt_range,
    Memory.all_filled (q := fun a => decide (a < n)) v (by simp)⟩

theorem powerOn_memoriesCanonical (cfg : Config) (cart : Cart) : MemoriesCanonical (powerOn cfg cart) where
  ram := Memory.filled_range 2048 _
  apu := ⟨Memory.wf_filled _ (by decide), Memory.all_filled _ (List.all_eq_true.2 fun _ => mem_apuAddresses.1)⟩
  vram := Memory.filled_range 2048 _
  palette := Memory.filled_range 32 _
  oam := Memory.filled_range 256 _

/-- The status at power-on and reset has the stored Break bits. -/
theorem breakOk_resetStatus : breakOk 0x24 := ⟨by decide, by decide⟩

theorem powerOn_breakBits (cfg : Config) (cart : Cart) : BreakBits (powerOn cfg cart) := breakOk_resetStatus

theorem powerOn_deviceRanges (cfg : Config) (cart : Cart) : DeviceRanges (powerOn cfg cart) where
  addr := Nat.zero_le _
  scanline := Nat.zero_le _
  cycle := Nat.zero_le _
  status := BitVec.zero_and
  toggles := fun _ => rfl
  index := Nat.zero_le _

theorem powerOn_clockCongruent (cfg : Config) (cart : Cart) : ClockCongruent (powerOn cfg cart) := rfl

theorem powerOn_hostSucceeds (cfg : Config) (cart : Cart) : HostSucceeds (powerOn cfg cart) := rfl

/-! #### Reset -/

/-- A host with no reply to give leaves a tick to be only the clock (log 5). -/
theorem busTick_noReplies {s : State} (h : s.frameReplies = []) (n : Nat) : busTick s n = .ok (clock n s) := by
  have hframe : hostFrame (clock n s) = .ok (clock n s) := by rw [hostFrame, clock_frameReplies, h]
  rw [busTick, hframe, ite_self]

/-- What reset changes of a machine at power-on: PC and the clocks. -/
theorem resetCpu_powerOn (cfg : Config) (cart : Cart) :
    resetCpu (powerOn cfg cart) = .ok { powerOn cfg cart with
      pc := word16 (prgByte cart 0xFFFD) (prgByte cart 0xFFFC)
      cycles := cfg.resetCycles
      ppu := ppuTick (3 * cfg.resetCycles) (powerOn cfg cart).ppu } := by
  rw [resetCpu, read16_prg (by decide) (by decide), ok_bind, busTick_noReplies rfl]
  simp only [clock, powerOn, Nat.zero_add]
  rfl

/-- With the background off a tick within a scanline only counts its cycles (50_ppu R319, R320). -/
theorem ppuTick_withinScanline {u : Ppu} {n : Nat} (hm : bitOf u.mask 4 = false) (hc : u.cycle + n < 341) :
    ppuTick n u = { u with cycle := u.cycle + n } := by
  have htest : spriteZeroTest { u with cycle := u.cycle + n } = { u with cycle := u.cycle + n } := by
    rw [spriteZeroTest, if_neg fun ⟨_, _, hbit⟩ => Bool.false_ne_true (hm.symm.trans hbit)]
  simp only [ppuTick, htest, Nat.div_eq_of_lt hc, scanlineLoop]

/-- Reset keeps what the elementary changes of a step keep; the status it writes has the stored Break bits. -/
theorem StepClosed.resetCpu {I : State → Prop} (C : StepClosed I) {s t : State} (h : I s) (e : resetCpu s = .ok t) :
    I t := by
  rw [Machine.resetCpu, bind_eq_ok] at e
  obtain ⟨⟨w, s1⟩, hread, htick⟩ := e
  have h0 := C.status _ 0x24 (C.regs s 0x00 0x00 0x00 0xFD s.pc h) fun _ => breakOk_resetStatus
  exact C.busTick (C.pc w (C.read16 h0 hread)) htick

/-- The default power-on and reset (70_reset_and_hazards R401), whose 21 PPU cycles end within the first scanline. -/
theorem resetCpu_powerOn_default (cart : Cart) :
    resetCpu (powerOn defaultConfig cart) = .ok { powerOn defaultConfig cart with
      pc := word16 (prgByte cart 0xFFFD) (prgByte cart 0xFFFC)
      cycles := 7
      ppu := { (powerOn defaultConfig cart).ppu with cycle := 21 } } := by
  have hmask : bitOf (powerOn defaultConfig cart).ppu.mask 4 = false := by
    change bitOf 0x00 4 = false
    decide
  have hline : (powerOn defaultConfig cart).ppu.cycle + 3 * defaultConfig.resetCycles < 341 := by
    change 0 + 3 * 7 < 341
    decide
  rw [resetCpu_powerOn, ppuTick_withinScanline hmask hline]
  rfl

/-- Settles O16: power-on is a table, and reset reads a vector in PRG ROM and ticks with no reply to come. -/
theorem resetState : Obligations.ResetState := by
  refine ⟨fun cart => ⟨rfl, resetCpu_powerOn_default cart⟩, fun _ => rfl, fun cfg cart s hs => ?_⟩
  subst hs
  have hrange : ∀ {n k : Nat}, k < n → Memory.read (Memory.filled (List.range n) cfg.initFill) k = cfg.initFill :=
    fun hk => Memory.read_filled _ (List.mem_range.2 hk)
  exact ⟨rfl, powerOn_memoriesCanonical cfg cart, fun _ hk => ⟨hrange hk, hrange hk⟩,
    fun _ hk => Memory.read_filled _ (mem_apuAddresses.2 hk), fun _ => hrange, fun _ => hrange,
    resetCpu_powerOn cfg cart⟩

/-- Settles O15: power-on meets the invariants, and reset keeps them as a step does. -/
theorem resetMeetsInvariants : Obligations.ResetMeetsInvariants := by
  have hreset : resetCpu (powerOn defaultConfig blankCart) = .ok State.reset := resetCpu_powerOn_default blankCart
  have hranges := deviceRanges_closed.resetCpu (powerOn_deviceRanges _ _) hreset
  have hclock := clockCongruent_closed.resetCpu (powerOn_clockCongruent _ _) hreset
  exact ⟨hreset, memoriesCanonical_closed.resetCpu (powerOn_memoriesCanonical _ _) hreset,
    breakBits_closed.resetCpu (powerOn_breakBits _ _) hreset, hranges, (clockAgrees_iff hranges).2 hclock,
    ((sameCart_closed _).resetCpu ⟨rfl, rfl, rfl⟩ hreset).mirroring,
    hostSucceeds_closed.resetCpu (powerOn_hostSucceeds _ _) hreset⟩

end Sys2Proof.Machine
